-- ==== Sys2Proof/Word.lean ====
section
/-! DEFINITION. The bit-vector types of the engine: a 32-bit register or bus word, an 8-bit sample or file byte
(00_scope.md R5: "registers are 32 bits, samples are 8 bits"). -/

namespace Sys2Proof

/-- One unsigned 8-bit sample or file byte (R11). -/
abbrev Byte := BitVec 8

/-- One 32-bit register, command word or bus data word (R5, R90). -/
abbrev Word := BitVec 32

end Sys2Proof
end

