-- ==== Sys2Proof/Syntax.lean ====
section
/-! DEFINITION. The 17 commands of 30_encoding.md R92, one constructor for each row of spec/opcode_table.json. A
format-I command carries its operand as the signed integer R91 gives it. -/

namespace Sys2Proof

/-- A command word's meaning ("instruction" and "command" are one thing, R2). -/
inductive Instr where
  /-- 0x00, R190 -/
  | nop
  /-- 0x01, R112 -/
  | decode
  /-- 0x02, R123 -/
  | encode
  /-- 0x03, R192 -/
  | setshape
  /-- 0x04, R193 -/
  | release
  /-- 0x10, R141 -/
  | negative
  /-- 0x11, R142 -/
  | grayscale
  /-- 0x12, R143; `delta` is the signed immediate of R91 -/
  | bright (delta : Int)
  /-- 0x13, R144; `t` is the signed immediate of R91 -/
  | thresh (t : Int)
  /-- 0x20, R152 -/
  | convolve
  /-- 0x21, R156 -/
  | boxblur
  /-- 0x22, R157 -/
  | gauss
  /-- 0x23, R158 -/
  | outline
  /-- 0x24, R159 -/
  | emboss
  /-- 0x25, R160 -/
  | sharpen
  /-- 0x30, R170 -/
  | equalize
  /-- 0x31, R183 -/
  | histo
  deriving DecidableEq, Repr

end Sys2Proof
end

