-- ==== Sys2Proof/WellFormed.lean ====
section
/-! DEFINITION. Which commands a command word can express: the immediate of a format-I command is a signed 16-bit
integer (30_encoding.md R91). -/

namespace Sys2Proof

/-- R91: "a signed integer in -32768 .. 32767". -/
def immediateInRange (v : Int) : Bool :=
  decide (-32768 ≤ v) && decide (v ≤ 32767)

/-- A command that some word encodes. -/
def Instr.wellFormed : Instr → Bool
  | .nop => true
  | .decode => true
  | .encode => true
  | .setshape => true
  | .release => true
  | .negative => true
  | .grayscale => true
  | .bright delta => immediateInRange delta
  | .thresh t => immediateInRange t
  | .convolve => true
  | .boxblur => true
  | .gauss => true
  | .outline => true
  | .emboss => true
  | .sharpen => true
  | .equalize => true
  | .histo => true

end Sys2Proof
end

