-- ==== Sys2Proof/Decode.lean ====
section
/-! DEFINITION. The command decoder of 30_encoding.md R93, total on every 32-bit word and rejecting by name, the
encoder written from the same fields, and the opcode map of R92 as a table of match and mask. -/

namespace Sys2Proof

/-- Why a word is no command (R93, R94: it completes with IllegalCommand). -/
inductive DecodeError where
  /-- bits 15:8 are not 0 -/
  | reservedBits
  /-- bits 7:0 are none of the 17 operation codes -/
  | unknownOpcode
  /-- a format-N operation code with bits 31:16 not 0 -/
  | immediateOnFormatN
  deriving DecidableEq, Repr

/-- OPC, bits 7:0 (R90). -/
def opcField (w : Word) : BitVec 8 := w.extractLsb' 0 8

/-- RSV, bits 15:8 (R90). -/
def rsvField (w : Word) : BitVec 8 := w.extractLsb' 8 8

/-- IMM16, bits 31:16 (R90). -/
def immField (w : Word) : BitVec 16 := w.extractLsb' 16 16

/-- A format-N operation code takes no immediate (R93). -/
def formatN (imm : BitVec 16) (i : Instr) : Except DecodeError Instr :=
  if imm = 0#16 then .ok i else .error .immediateOnFormatN

/-- The decode function of R93: reserved bits, then the operation code, then the immediate. The operand of a format-I
command is `sext_16` of the immediate field (R91). -/
def decode (w : Word) : Except DecodeError Instr :=
  let imm := immField w
  if rsvField w ≠ 0#8 then .error .reservedBits
  else match (opcField w).toNat with
    | 0x00 => formatN imm .nop
    | 0x01 => formatN imm .decode
    | 0x02 => formatN imm .encode
    | 0x03 => formatN imm .setshape
    | 0x04 => formatN imm .release
    | 0x10 => formatN imm .negative
    | 0x11 => formatN imm .grayscale
    | 0x12 => .ok (.bright imm.toInt)
    | 0x13 => .ok (.thresh imm.toInt)
    | 0x20 => formatN imm .convolve
    | 0x21 => formatN imm .boxblur
    | 0x22 => formatN imm .gauss
    | 0x23 => formatN imm .outline
    | 0x24 => formatN imm .emboss
    | 0x25 => formatN imm .sharpen
    | 0x30 => formatN imm .equalize
    | 0x31 => formatN imm .histo
    | _ => .error .unknownOpcode

/-- The operation code of R92's table. -/
def Instr.opcode : Instr → BitVec 8
  | .nop => 0x00#8
  | .decode => 0x01#8
  | .encode => 0x02#8
  | .setshape => 0x03#8
  | .release => 0x04#8
  | .negative => 0x10#8
  | .grayscale => 0x11#8
  | .bright _ => 0x12#8
  | .thresh _ => 0x13#8
  | .convolve => 0x20#8
  | .boxblur => 0x21#8
  | .gauss => 0x22#8
  | .outline => 0x23#8
  | .emboss => 0x24#8
  | .sharpen => 0x25#8
  | .equalize => 0x30#8
  | .histo => 0x31#8

/-- The immediate field: the operand modulo 2^16 for format I, 0 for format N (R90, R96). -/
def Instr.immediate : Instr → BitVec 16
  | .nop => 0#16
  | .decode => 0#16
  | .encode => 0#16
  | .setshape => 0#16
  | .release => 0#16
  | .negative => 0#16
  | .grayscale => 0#16
  | .bright delta => BitVec.ofInt 16 delta
  | .thresh t => BitVec.ofInt 16 t
  | .convolve => 0#16
  | .boxblur => 0#16
  | .gauss => 0#16
  | .outline => 0#16
  | .emboss => 0#16
  | .sharpen => 0#16
  | .equalize => 0#16
  | .histo => 0#16

/-- The command word of a command: `iiiiiiiiiiiiiiii 00000000 oooooooo` (R90). -/
def encode (i : Instr) : Word :=
  i.immediate ++ (0#8 ++ i.opcode)

/-- One row of R92: a word `w` is the row's command when `w & mask = match`. -/
structure OpcodeRow where
  mnemonic : String
  pattern : Word
  mask : Word
  deriving DecidableEq, Repr

/-- A row's condition (R92). -/
def OpcodeRow.covers (r : OpcodeRow) (w : Word) : Bool :=
  w &&& r.mask == r.pattern

/-- The opcode map of R92. -/
def opcodeRows : List OpcodeRow :=
  [⟨"NOP", 0x00000000#32, 0xFFFFFFFF#32⟩, ⟨"DECODE", 0x00000001#32, 0xFFFFFFFF#32⟩,
   ⟨"ENCODE", 0x00000002#32, 0xFFFFFFFF#32⟩, ⟨"SETSHAPE", 0x00000003#32, 0xFFFFFFFF#32⟩,
   ⟨"RELEASE", 0x00000004#32, 0xFFFFFFFF#32⟩] ++
  [⟨"NEGATIVE", 0x00000010#32, 0xFFFFFFFF#32⟩, ⟨"GRAYSCALE", 0x00000011#32, 0xFFFFFFFF#32⟩,
   ⟨"BRIGHT", 0x00000012#32, 0x0000FFFF#32⟩, ⟨"THRESH", 0x00000013#32, 0x0000FFFF#32⟩] ++
  [⟨"CONVOLVE", 0x00000020#32, 0xFFFFFFFF#32⟩, ⟨"BOXBLUR", 0x00000021#32, 0xFFFFFFFF#32⟩,
   ⟨"GAUSS", 0x00000022#32, 0xFFFFFFFF#32⟩, ⟨"OUTLINE", 0x00000023#32, 0xFFFFFFFF#32⟩,
   ⟨"EMBOSS", 0x00000024#32, 0xFFFFFFFF#32⟩, ⟨"SHARPEN", 0x00000025#32, 0xFFFFFFFF#32⟩] ++
  [⟨"EQUALIZE", 0x00000030#32, 0xFFFFFFFF#32⟩, ⟨"HISTO", 0x00000031#32, 0xFFFFFFFF#32⟩]

/-- The mnemonic of a command in R92's table. -/
def Instr.mnemonic : Instr → String
  | .nop => "NOP"
  | .decode => "DECODE"
  | .encode => "ENCODE"
  | .setshape => "SETSHAPE"
  | .release => "RELEASE"
  | .negative => "NEGATIVE"
  | .grayscale => "GRAYSCALE"
  | .bright _ => "BRIGHT"
  | .thresh _ => "THRESH"
  | .convolve => "CONVOLVE"
  | .boxblur => "BOXBLUR"
  | .gauss => "GAUSS"
  | .outline => "OUTLINE"
  | .emboss => "EMBOSS"
  | .sharpen => "SHARPEN"
  | .equalize => "EQUALIZE"
  | .histo => "HISTO"

/-- The command word that the low `nbits` bits of `w` spell, every bit above them 0. A command is one 32-bit word
(R90), so nothing of a longer pattern is left over. -/
def tableWord (nbits w : Nat) : Word :=
  BitVec.ofNat 32 (w % 2 ^ nbits)

/-- The command that the decoder reads from a word numbered as spec/opcode_table.json numbers it; none where it
refuses. -/
def decodeTableWord (nbits w : Nat) : Option Instr :=
  match decode (tableWord nbits w) with
  | .ok i => some i
  | .error _ => none

end Sys2Proof
end

