-- ==== Sys2Proof/Config.lean ====
section
/-! DEFINITION. What an implementation of the engine fixes: the three parameters of 00_scope.md R5 at the values R5
gives "for this hardware", the optional policies at the values the rules state, and the free values of the items that
93_implementation_defined.md leaves open. -/

namespace Sys2Proof.Config

/-- FILE_CAP, the capacity of the file buffer in bytes (R5: 2^24). Log entry 9. -/
def fileCap : Nat := 16777216

/-- RASTER_CAP, the capacity of the raster buffer in samples (R5: 2^24). Log entry 9. -/
def rasterCap : Nat := 16777216

/-- KMAX, the largest kernel side (R5: 7). Log entry 9. -/
def kmax : Nat := 7

/-- The constant of the ID register (10_state.md R33, the ASCII letters "IPE7"). -/
def idValue : Word := 0x49504537#32

/-- ROUND_TIE (92_eei_decisions.md D14): which way `round` sends a value halfway between two integers. -/
inductive RoundTie where
  /-- away from zero, the rule R7 -/
  | away
  /-- to the even neighbour -/
  | even
  /-- towards plus infinity -/
  | up
  deriving DecidableEq, Repr

/-- R7: "it is the one farther from zero". Log entry 10. -/
def roundTie : RoundTie := .away

/-- PIXOFF_POLICY (92_eei_decisions.md D22): what DECODE does with a pixel-data-offset field that differs from the
fixed layout. -/
inductive PixoffPolicy where
  /-- latched and otherwise ignored, the rule R116 -/
  | fixed
  /-- fails with UnsupportedFormat -/
  | reject
  deriving DecidableEq, Repr

/-- R116 and conflict C5: the fixed layout wins. Log entry 11. -/
def pixoffPolicy : PixoffPolicy := .fixed

/-- FREE VALUE (93_implementation_defined.md U1, MEM_INIT). What the memory item at a bus address holds from a reset
on until something writes it: the first argument counts the resets, the second is the item's bus address. A location
keeps its value, so it depends on nothing else. Log entry 3. -/
opaque powerOn : Nat → Nat → Word

/-- FREE VALUE (93_implementation_defined.md U2, U3, U5). What a bus read of an unspecified place returns: a fresh
value for each read, the argument being State's counter. Log entry 5. -/
opaque freeValue : Nat → Word

end Sys2Proof.Config
end

