-- ==== Sys2Proof/Machine/State.lean ====
section
/-! DEFINITION. What the engine's machine holds (10_state.md R20 to R50), as plain data: the registers, the flags, the
memories, and the model's own four fields (what the environment does next, what the bus last answered, and the two
counters that select free values). -/

namespace Sys2Proof.Machine

/-- A memory of `w`-bit items, keyed by the item's index in its window (20_memory.md R61): the items that have been
written since the last reset, indices strictly rising (`Memory.wf`). An index that is not listed has not been written
and reads as the free value of U1 (log entries 3 and 6). `Memory 8` is a list of `Host.Cell`. -/
abbrev Memory (w : Nat) := List (Nat × BitVec w)

/-- The result codes of 60_exceptions.md R201, in its order 0 to 8. -/
inductive ResultCode where
  | ok
  | ioError
  | invalidSignature
  | unsupportedFormat
  | invalidKernel
  | shapeMismatch
  | emptyBuffer
  | illegalCommand
  | capacityExceeded
  deriving DecidableEq, Repr

/-- The storage of `STATUS` (R23); bits 31:6 have none. -/
structure Status where
  /-- bit 0, a command is in flight -/
  busy : Bool
  /-- bit 1, sticky: a command has completed -/
  done : Bool
  /-- bit 2, sticky: a command has completed with a code other than 0 -/
  errf : Bool
  /-- bit 3, sticky: a host access broke the busy rule (R236) -/
  hzd : Bool
  /-- bit 4, the raster buffer holds an image (R27) -/
  bufvalid : Bool
  /-- bit 5, HDR8 holds the current buffer's captured header (R43) -/
  hdrvalid : Bool
  deriving DecidableEq, Repr

/-- The storage of `IRQEN` (R25); bits 0 and 31:4 have none. -/
structure IrqEnable where
  /-- bit 1 -/
  doneIe : Bool
  /-- bit 2 -/
  errIe : Bool
  /-- bit 3 -/
  hzdIe : Bool
  deriving DecidableEq, Repr

/-- The width of a bus access, 1, 2 or 4 bytes (20_memory.md R66). -/
inductive AccessSize where
  | byte
  | half
  | word
  deriving DecidableEq, Repr

/-- One host access, `BusRead(addr, n)` or `BusWrite(addr, n, v)` (R66); addresses are offsets from the engine's base
(R60). -/
inductive Access where
  | read (addr : Word) (n : AccessSize)
  | write (addr : Word) (n : AccessSize) (v : Word)
  deriving DecidableEq, Repr

/-- What the bus answers to an access (R66, R69). -/
inductive BusResponse where
  /-- a read's value, in the low bits of the data word -/
  | data (v : Word)
  /-- a write was taken, with or without an effect (R70) -/
  | written
  /-- the access error of R69 -/
  | error
  deriving DecidableEq, Repr

/-- What can happen next (R80, R81, R230); log entry 1. -/
inductive Event where
  /-- the host makes one access -/
  | access (a : Access)
  /-- the engine has the turn: it completes the command in flight, if there is one -/
  | engine
  /-- `rst` is sampled high -/
  | rst
  deriving DecidableEq, Repr

/-- The machine's state. -/
structure State where
  /-- `IR`, the command word last accepted (R21, R22) -/
  ir : Word
  /-- `STATUS` (R23) -/
  status : Status
  /-- `RESULT[7:0]`, the code of the most recently completed command (R24) -/
  result : ResultCode
  /-- `IRQEN` (R25) -/
  irqen : IrqEnable
  /-- `WIDTH` (R26) -/
  width : Word
  /-- `HEIGHT` (R26) -/
  height : Word
  /-- `CHANNELS` (R26) -/
  channels : Word
  /-- `FLEN` (R28) -/
  flen : Word
  /-- `ARGW` (R29) -/
  argw : Word
  /-- `ARGH` (R29) -/
  argh : Word
  /-- `ARGCH` (R29) -/
  argch : Word
  /-- `KROWS` (R30) -/
  krows : Word
  /-- `KCOLS` (R30) -/
  kcols : Word
  /-- `KDIV[15:0]` (R31) -/
  kdiv : BitVec 16
  /-- `PIXOFF` (R32) -/
  pixoff : Word
  /-- `DATASIZE` (R32) -/
  datasize : Word
  /-- `KCOEF`, the kernel numerators (R40) -/
  kcoef : Memory 16
  /-- `HIST` (R41) -/
  hist : Memory 32
  /-- `CDF` (R41) -/
  cdf : Memory 32
  /-- `LUT` (R42) -/
  lut : Memory 8
  /-- `HDR8`, the captured header and colour table (R43) -/
  hdr8 : Memory 8
  /-- `FB`, the file buffer (R44) -/
  fb : Memory 8
  /-- `RB`, the raster buffer (R45) -/
  rb : Memory 8
  /-- the model's own: how many resets there have been, which selects the unspecified contents of U1 (log entry 4) -/
  powerEpoch : Nat
  /-- the model's own: which fresh free value comes next (log entry 5) -/
  freeCount : Nat
  /-- the model's own: what happens next, first to come first (log entry 1) -/
  agenda : List Event
  /-- the model's own: what the bus response port last showed (log entry 2) -/
  busOut : Option BusResponse
  deriving DecidableEq, Repr

/-- The reasons for which a step stops with a fault. There is none: a failing command completes with a result code
(R200, R205), an access error is answered on the bus (R69), and a violation of the busy rule sets a flag (R236). Log
entry 20; safe, since nothing is claimed of a stop. -/
inductive Fault where
  deriving DecidableEq, Repr

/-- The reasons for which a step gives no meaning. -/
inductive Refusal where
  /-- raised by `exec` for an instruction the model gives no meaning yet (safe); no arm raises it -/
  | notModelled (mnemonic : String)
  deriving DecidableEq, Repr

/-- The machine right after reset (R50): every register at its stated value, KDIV 1 and all else 0; no memory is reset,
so none lists an item. -/
def State.reset : State where
  ir := 0#32
  status := ⟨false, false, false, false, false, false⟩
  result := .ok
  irqen := ⟨false, false, false⟩
  width := 0#32
  height := 0#32
  channels := 0#32
  flen := 0#32
  argw := 0#32
  argh := 0#32
  argch := 0#32
  krows := 0#32
  kcols := 0#32
  kdiv := 1#16
  pixoff := 0#32
  datasize := 0#32
  kcoef := []
  hist := []
  cdf := []
  lut := []
  hdr8 := []
  fb := []
  rb := []
  powerEpoch := 0
  freeCount := 0
  agenda := []
  busOut := none

end Sys2Proof.Machine
end

