-- ==== Sys2Proof/Machine/Flags.lean ====
section
/-! DEFINITION. The result code, the status word, the interrupt enables and the interrupt output: what their words
read as, and every rule that sets or clears a flag (10_state.md R23 to R25, 60_exceptions.md R201, R205, R210). -/

namespace Sys2Proof.Machine

/-- The number of a result code (R201). -/
def ResultCode.code : ResultCode → BitVec 8
  | .ok => 0#8
  | .ioError => 1#8
  | .invalidSignature => 2#8
  | .unsupportedFormat => 3#8
  | .invalidKernel => 4#8
  | .shapeMismatch => 5#8
  | .emptyBuffer => 6#8
  | .illegalCommand => 7#8
  | .capacityExceeded => 8#8

/-- What a read of RESULT returns: the code in bits 7:0, bits 31:8 zero (R24). -/
def ResultCode.toWord (r : ResultCode) : Word :=
  r.code.zeroExtend 32

/-- What a read of STATUS returns (R23): BUSY, DONE, ERRF, HZD, BUFVALID, HDRVALID in bits 0 to 5, bits 31:6 zero. -/
def Status.toWord (t : Status) : Word :=
  BitVec.ofNat 32 (t.busy.toNat + 2 * t.done.toNat + 4 * t.errf.toNat + 8 * t.hzd.toNat + 16 * t.bufvalid.toNat
    + 32 * t.hdrvalid.toNat)

/-- A host write of STATUS (R23): a 1 in bit 1, 2 or 3 clears DONE, ERRF or HZD; every other bit is ignored. -/
def Status.clearedBy (w : Word) (t : Status) : Status :=
  { t with done := t.done && !w.getLsbD 1, errf := t.errf && !w.getLsbD 2, hzd := t.hzd && !w.getLsbD 3 }

/-- The flags after a completion with code `r` (R205): BUSY falls, DONE rises, ERRF rises when the code is not 0 and
otherwise keeps its value; HZD is not touched. -/
def Status.completed (r : ResultCode) (t : Status) : Status :=
  { t with busy := false, done := true, errf := t.errf || r != .ok }

/-- What a read of IRQEN returns: the enables in bits 1 to 3, all else 0 (R25). -/
def IrqEnable.toWord (e : IrqEnable) : Word :=
  BitVec.ofNat 32 (2 * e.doneIe.toNat + 4 * e.errIe.toNat + 8 * e.hzdIe.toNat)

/-- A host write of IRQEN stores bits 1 to 3 (R25). -/
def IrqEnable.ofWord (w : Word) : IrqEnable :=
  ⟨w.getLsbD 1, w.getLsbD 2, w.getLsbD 3⟩

/-- The interrupt output (R210): a pure function of the sticky flags and their enables. -/
def State.irq (s : State) : Bool :=
  (s.status.done && s.irqen.doneIe) || (s.status.errf && s.irqen.errIe) || (s.status.hzd && s.irqen.hzdIe)

end Sys2Proof.Machine
end

