-- ==== Sys2Proof/Machine/Ops.lean ====
section
/-! DEFINITION. The shared operations: arithmetic (clamp, round, byte order), the memories, the completion of a command
(the engine's "trap entry", 60_exceptions.md R205, R206) and its acknowledgement (R207), reset, and the building and
storing of a raster. -/

namespace Sys2Proof.Machine

/-! ## Arithmetic (00_scope.md R6, R7) -/

/-- `clamp(v, lo, hi)` (R6). -/
def clamp (v lo hi : Int) : Int :=
  if v < lo then lo else if hi < v then hi else v

/-- The sample that a whole number becomes: clamped to 0..255 (R6, R143, R153, R180). -/
def clampByte (v : Int) : Byte :=
  BitVec.ofInt 8 (clamp v 0 255)

/-- The integer nearest to `num / den`, for a positive `den`, with a tie sent as `tie` says. The first line is R7:
`floor(q + 1/2)` for `q >= 0` and `-floor(-q + 1/2)` for `q < 0`. The other two are the choices of parameter ROUND_TIE
(92_eei_decisions.md D14). -/
def roundWith : Config.RoundTie → Int → Nat → Int
  | .away, num, den =>
    if 0 ≤ num then (2 * num + den) / (2 * den) else -((-2 * num + den) / (2 * den))
  | .even, num, den =>
    let q := (2 * num + den) / (2 * (den : Int))
    if (2 * num + den) % (2 * (den : Int)) = 0 ∧ q % 2 ≠ 0 then q - 1 else q
  | .up, num, den => (2 * num + den) / (2 * den)

/-- `round(num / den)` of R7, applied once to the exact rational (R8). -/
def round (num : Int) (den : Nat) : Int :=
  roundWith Config.roundTie num den

/-- The unsigned number that a list of bytes spells, lowest address first (R68, R72). -/
def leNat : List Byte → Nat
  | [] => 0
  | b :: bs => b.toNat + 256 * leNat bs

/-- The low `8n` bits of `v` as `n` bytes, lowest address first (R68, R73). -/
def leBytes : Nat → Nat → List Byte
  | 0, _ => []
  | n + 1, v => BitVec.ofNat 8 v :: leBytes n (v / 256)

/-- The number of bytes an access moves (R66). -/
def AccessSize.bytes : AccessSize → Nat
  | .byte => 1
  | .half => 2
  | .word => 4

/-! ## Memories -/

/-- The canonical form of a memory: its listed indices rise strictly. -/
abbrev Memory.wf {w : Nat} (m : Memory w) : Prop :=
  List.Pairwise (fun a b : Nat × BitVec w => a.1 < b.1) m

/-- What was last written to index `a`, if anything was since the last reset. -/
def Memory.get? {w : Nat} : Memory w → Nat → Option (BitVec w)
  | [], _ => none
  | (b, v) :: m, a => if b = a then some v else Memory.get? m a

/-- The value at index `a` of a memory whose item 0 is at bus address `base` and whose items are `step` apart: what was
last written, or else the unspecified contents since reset number `epoch` (U1). -/
def Memory.item {w : Nat} (m : Memory w) (epoch base step a : Nat) : BitVec w :=
  (m.get? a).getD ((Config.powerOn epoch (base + step * a)).setWidth w)

/-- The items of a list at consecutive indices from `a` on. -/
def Memory.run {w : Nat} (a : Nat) : List (BitVec w) → Memory w
  | [] => []
  | v :: vs => (a, v) :: Memory.run (a + 1) vs

/-- The items below index `a`. -/
def Memory.below {w : Nat} (a : Nat) (m : Memory w) : Memory w :=
  m.filter fun c => decide (c.1 < a)

/-- The items at index `a` and above. -/
def Memory.from {w : Nat} (a : Nat) (m : Memory w) : Memory w :=
  m.filter fun c => decide (a ≤ c.1)

/-- Store the items `vs` at consecutive indices from `a` on; every other index keeps what it had. -/
def Memory.write {w : Nat} (m : Memory w) (a : Nat) (vs : List (BitVec w)) : Memory w :=
  m.below a ++ (Memory.run a vs ++ m.from (a + vs.length))

/-! ## Completion of a command and its acknowledgement (60_exceptions.md R205 to R207) -/

/-- The completion update of R205 with result code `r`. -/
def State.complete (r : ResultCode) (s : State) : State :=
  { s with result := r, status := s.status.completed r }

/-- `fail E` (R206): the completion update with the error's code and no other change. -/
def State.fail (r : ResultCode) (s : State) : Host.Outcome State Fault Refusal :=
  .next (s.complete r)

/-- The end of a command that does not fail, after its own state changes (R205 with code 0). -/
def State.succeed (s : State) : Host.Outcome State Fault Refusal :=
  .next (s.complete .ok)

/-- The first test of every command that needs a buffer (R215): EmptyBuffer when BUFVALID is 0. -/
def State.needBuffer (s : State) (body : Host.Outcome State Fault Refusal) : Host.Outcome State Fault Refusal :=
  if s.status.bufvalid then body else s.fail .emptyBuffer

/-- The host's acknowledgement, the engine's "trap return" (R207): a write of STATUS. -/
def State.acknowledge (w : Word) (s : State) : State :=
  { s with status := s.status.clearedBy w }

/-- `rst` sampled high (70_reset_and_hazards.md R230): the reset state, with memories whose contents are unspecified
anew. A command in flight is abandoned without completing. What the environment does next stays as it is. -/
def State.applyReset (s : State) : State :=
  { State.reset with powerEpoch := s.powerEpoch + 1, freeCount := s.freeCount, agenda := s.agenda }

/-! ## Building and storing a raster (20_memory.md R74, 10_state.md R46) -/

/-- The samples of an image of width `w`, height `h` and `ch` channels whose sample (x, y, c) is `f x y c`, in the
order of R74: index `(y*w + x)*ch + c`. -/
def buildRaster (w h ch : Nat) (f : Nat → Nat → Nat → Byte) : List Byte :=
  (List.range (w * h * ch)).map fun k => f (k / ch % w) (k / ch / w) (k % ch)

/-- Make `samples` the samples from index 0 on, all at once (R46, R81). -/
def State.storeRaster (samples : List Byte) (s : State) : State :=
  { s with rb := s.rb.write 0 samples }

end Sys2Proof.Machine
end

