-- ==== Sys2Proof/Machine/Operands.lean ====
section
/-! DEFINITION. The operands of the commands (10_state.md R20): the shape and the samples of the raster buffer, the bytes
and fields of the file buffer, and the host's kernel. -/

namespace Sys2Proof.Machine

/-! ## The raster buffer -/

/-- `WIDTH` as a number. -/
def State.w (s : State) : Nat := s.width.toNat

/-- `HEIGHT` as a number. -/
def State.h (s : State) : Nat := s.height.toNat

/-- `CHANNELS` as a number. -/
def State.ch (s : State) : Nat := s.channels.toNat

/-- `N` (R27): the number of samples of the image; 0 when there is none. -/
def State.nSamples (s : State) : Nat :=
  if s.status.bufvalid then s.w * s.h * s.ch else 0

/-- `total` (43_equalization.md): the pixel count. -/
def State.total (s : State) : Nat := s.w * s.h

/-- `RB[k]` (R45, window RBUF of R60). -/
def State.sample (s : State) (k : Nat) : Byte :=
  s.rb.item s.powerEpoch 0x20000000 1 k

/-- `S(x, y, c)` (R74). -/
def State.pixelSample (s : State) (x y c : Nat) : Byte :=
  s.sample ((y * s.w + x) * s.ch + c)

/-- `RB[0 .. N-1]`. -/
def State.samples (s : State) : List Byte :=
  (List.range s.nSamples).map s.sample

/-! ## The file buffer -/

/-- `FB[k]` (R44, window FBUF of R60). -/
def State.fileByte (s : State) (k : Nat) : Byte :=
  s.fb.item s.powerEpoch 0x10000000 1 k

/-- `FLEN` as a number. -/
def State.fileLen (s : State) : Nat := s.flen.toNat

/-- The bytes `FB[off .. off+n-1]`. -/
def State.fileBytesAt (s : State) (off n : Nat) : List Byte :=
  (List.range n).map fun k => s.fileByte (off + k)

/-- The little-endian unsigned field of `n` bytes at `FB[off]` (R72). -/
def State.fileField (s : State) (off n : Nat) : Nat :=
  leNat (s.fileBytesAt off n)

/-- `FileRead(off, n)` (R72): IoError when a byte it needs is at index FLEN or above. -/
def State.fileRead (s : State) (off n : Nat) : Except ResultCode Nat :=
  if s.fileLen < off + n then .error .ioError else .ok (s.fileField off n)

/-- `FileBytes(off, n)` (R72), under the same bound check. -/
def State.fileBytes (s : State) (off n : Nat) : Except ResultCode (List Byte) :=
  if s.fileLen < off + n then .error .ioError else .ok (s.fileBytesAt off n)

/-- `sext_32` of a 4-byte field (R6, R72). -/
def sext32 (v : Nat) : Int := (BitVec.ofNat 32 v).toInt

/-! ## The captured header -/

/-- `HDR8[k]` (R43, window HDR8 of R60). -/
def State.headerByte (s : State) (k : Nat) : Byte :=
  s.hdr8.item s.powerEpoch 0x5000 1 k

/-- The little-endian unsigned field of `n` bytes at `HDR8[off]`. -/
def State.headerField (s : State) (off n : Nat) : Nat :=
  leNat ((List.range n).map fun k => s.headerByte (off + k))

/-! ## The tables -/

/-- `HIST[i]` (R41). -/
def State.histEntry (s : State) (i : Nat) : Word :=
  s.hist.item s.powerEpoch 0x400 4 i

/-- `CDF[i]` (R41). -/
def State.cdfEntry (s : State) (i : Nat) : Word :=
  s.cdf.item s.powerEpoch 0x800 4 i

/-- `LUT[i]` (R42). -/
def State.lutEntry (s : State) (i : Nat) : Byte :=
  s.lut.item s.powerEpoch 0xC00 1 i

/-! ## The host's kernel -/

/-- The stored 16 bits of `KCOEF[e]` (R40). -/
def State.kernelBits (s : State) (e : Nat) : BitVec 16 :=
  s.kcoef.item s.powerEpoch 0x1000 4 e

/-- `sext_16(KCOEF[e])` (R40). -/
def State.kernelNumerator (s : State) (e : Nat) : Int :=
  (s.kernelBits e).toInt

/-- Kernel validation (42_convolution.md R151), on the unsigned register values: square, odd, at most KMAX, and a
divisor that is not 0. -/
def State.kernelValid (s : State) : Bool :=
  decide (s.krows = s.kcols) && decide (s.krows.toNat % 2 = 1) && decide (s.krows.toNat ≤ Config.kmax)
    && decide (s.kdiv ≠ 0#16)

end Sys2Proof.Machine
end

