-- ==== Sys2Proof/Machine/Bus.lean ====
section
/-! DEFINITION. The host's side: the address map, the bus accesses, the registers as the host reads and writes them, and
the busy rule (20_memory.md R60 to R70, 10_state.md R22 to R33, 70_reset_and_hazards.md R236). -/

namespace Sys2Proof.Machine

/-- The twenty registers of the REG window (10_state.md, section 2), in the order of their offsets. -/
inductive Reg where
  | cmd | status | result | irqen | width | height | channels | flen | argw | argh | argch | krows | kcols | kdiv
  | pixoff | datasize | id | filecap | rastercap | kmaxr
  deriving DecidableEq, Repr

/-- The four byte windows of R60. -/
inductive ByteWindow where
  | lut | hdr8 | fbuf | rbuf
  deriving DecidableEq, Repr

/-- What an access that is no access error reaches. -/
inductive Target where
  | reg (r : Reg)
  | hist (i : Nat)
  | cdf (i : Nat)
  | kcoef (e : Nat)
  /-- the bytes of a byte window from offset `k` on -/
  | bytes (win : ByteWindow) (k : Nat)
  deriving DecidableEq, Repr

/-! ## The address map -/

/-- The register at word `e` of the REG window: byte offset `4*e`. -/
def regAt : Nat → Option Reg
  | 0 => some .cmd
  | 1 => some .status
  | 2 => some .result
  | 3 => some .irqen
  | 4 => some .width
  | 5 => some .height
  | 6 => some .channels
  | 7 => some .flen
  | 8 => some .argw
  | 9 => some .argh
  | 10 => some .argch
  | 11 => some .krows
  | 12 => some .kcols
  | 13 => some .kdiv
  | 14 => some .pixoff
  | 15 => some .datasize
  | 16 => some .id
  | 17 => some .filecap
  | 18 => some .rastercap
  | 19 => some .kmaxr
  | _ => none

/-- The first address of a byte window (R60). -/
def ByteWindow.base : ByteWindow → Nat
  | .lut => 0x0C00
  | .hdr8 => 0x5000
  | .fbuf => 0x10000000
  | .rbuf => 0x20000000

/-- The size of a byte window (R60). -/
def ByteWindow.size : ByteWindow → Nat
  | .lut => 0x100
  | .hdr8 => 1078
  | .fbuf => Config.fileCap
  | .rbuf => Config.rasterCap

/-- All `n` bytes from address `a` on lie in the window of `size` bytes at `base` (R60). -/
def inWindow (base size a n : Nat) : Bool :=
  decide (base ≤ a) && decide (a + n ≤ base + size)

/-- The word window an access reaches (R60, R61), for an aligned 4-byte access at address `a`. -/
def wordTarget (a : Nat) : Option Target :=
  if inWindow 0x0000 0x50 a 4 then (regAt (a / 4)).map .reg
  else if inWindow 0x0400 0x400 a 4 then some (.hist ((a - 0x0400) / 4))
  else if inWindow 0x0800 0x400 a 4 then some (.cdf ((a - 0x0800) / 4))
  else if inWindow 0x1000 (4 * Config.kmax * Config.kmax) a 4 then some (.kcoef ((a - 0x1000) / 4))
  else none

/-- The byte window an access of `n` bytes reaches (R60). -/
def byteTarget (a n : Nat) : Option Target :=
  let hit (win : ByteWindow) : Bool := inWindow win.base win.size a n
  if hit .lut then some (.bytes .lut (a - ByteWindow.base .lut))
  else if hit .hdr8 then some (.bytes .hdr8 (a - ByteWindow.base .hdr8))
  else if hit .fbuf then some (.bytes .fbuf (a - ByteWindow.base .fbuf))
  else if hit .rbuf then some (.bytes .rbuf (a - ByteWindow.base .rbuf))
  else none

/-- What an access reaches; none is the access error of R69. Every access is naturally aligned, and a word window takes
4-byte accesses only (R67). -/
def locate (addr : Word) (n : AccessSize) : Option Target :=
  let a := addr.toNat
  if a % n.bytes ≠ 0 then none
  else match byteTarget a n.bytes with
    | some t => some t
    | none => if n = .word then wordTarget a else none

/-! ## Reads -/

/-- What a read of a register returns (R22 to R33). -/
def State.readReg (s : State) : Reg → Word
  | .cmd => s.ir
  | .status => s.status.toWord
  | .result => s.result.toWord
  | .irqen => s.irqen.toWord
  | .width => s.width
  | .height => s.height
  | .channels => s.channels
  | .flen => s.flen
  | .argw => s.argw
  | .argh => s.argh
  | .argch => s.argch
  | .krows => s.krows
  | .kcols => s.kcols
  | .kdiv => s.kdiv.zeroExtend 32
  | .pixoff => s.pixoff
  | .datasize => s.datasize
  | .id => Config.idValue
  | .filecap => BitVec.ofNat 32 Config.fileCap
  | .rastercap => BitVec.ofNat 32 Config.rasterCap
  | .kmaxr => BitVec.ofNat 32 Config.kmax

/-- Byte `j` of the free value that this read returns where the place is unspecified (U2, U3, U5). -/
def State.freeByte (s : State) (j : Nat) : Byte :=
  (Config.freeValue s.freeCount).extractLsb' (8 * j) 8

/-- What byte `k` of a byte window reads as, for byte `j` of an access: HDR8 while HDRVALID is 0 (R43) and a sample at
index N or above (R45) are unspecified. -/
def State.windowByte (s : State) (win : ByteWindow) (k j : Nat) : Byte :=
  match win with
  | .lut => s.lutEntry k
  | .hdr8 => if s.status.hdrvalid then s.headerByte k else s.freeByte j
  | .fbuf => s.fileByte k
  | .rbuf => if k < s.nSamples then s.sample k else s.freeByte j

/-- What a read returns (R61, R68): a word item, or `n` bytes little-endian; KCOEF sign-extended (R40). -/
def State.readTarget (s : State) (t : Target) (n : AccessSize) : Word :=
  match t with
  | .reg r => s.readReg r
  | .hist i => s.histEntry i
  | .cdf i => s.cdfEntry i
  | .kcoef e => (s.kernelBits e).signExtend 32
  | .bytes win k => BitVec.ofNat 32 (leNat ((List.range n.bytes).map fun j => s.windowByte win (k + j) j))

/-! ## Writes -/

/-- A host write of FLEN stores `min(zext_32(v), FILE_CAP)` (R28). -/
def clampLength (v : Word) : Word :=
  BitVec.ofNat 32 (min v.toNat Config.fileCap)

/-- A host write of a register, the engine idle or the register open while it is busy (R22 to R33, R70). A write of CMD
accepts the command; a write of a read-only register is ignored. -/
def State.writeReg (s : State) (r : Reg) (v : Word) : State :=
  match r with
  | .cmd => { s with ir := v, status := { s.status with busy := true } }
  | .status => s.acknowledge v
  | .result => s
  | .irqen => { s with irqen := IrqEnable.ofWord v }
  | .width => s
  | .height => s
  | .channels => s
  | .flen => { s with flen := clampLength v }
  | .argw => { s with argw := v }
  | .argh => { s with argh := v }
  | .argch => { s with argch := v }
  | .krows => { s with krows := v }
  | .kcols => { s with kcols := v }
  | .kdiv => { s with kdiv := v.setWidth 16 }
  | .pixoff => s
  | .datasize => s
  | .id => s
  | .filecap => s
  | .rastercap => s
  | .kmaxr => s

/-- A host write (R68, R70): HIST, CDF, LUT and HDR8 ignore it; KCOEF stores the low 16 bits. -/
def State.writeTarget (s : State) (t : Target) (n : AccessSize) (v : Word) : State :=
  match t with
  | .reg r => s.writeReg r v
  | .hist _ => s
  | .cdf _ => s
  | .kcoef e => { s with kcoef := s.kcoef.write e [v.setWidth 16] }
  | .bytes .lut _ => s
  | .bytes .hdr8 _ => s
  | .bytes .fbuf k => { s with fb := s.fb.write k (leBytes n.bytes v.toNat) }
  | .bytes .rbuf k => { s with rb := s.rb.write k (leBytes n.bytes v.toNat) }

/-! ## The busy rule (R236) and the access -/

/-- What the host may read while a command is in flight. -/
def Target.openToRead : Target → Bool
  | .reg .status => true
  | .reg .irqen => true
  | .reg .id => true
  | .reg .filecap => true
  | .reg .rastercap => true
  | .reg .kmaxr => true
  | _ => false

/-- What the host may write while a command is in flight. -/
def Target.openToWrite : Target → Bool
  | .reg .status => true
  | .reg .irqen => true
  | _ => false

/-- A violation of the busy rule sets HZD. -/
def State.violate (s : State) : State :=
  { s with status := { s.status with hzd := true } }

/-- The value of a read that breaks the busy rule: a fresh free value of the access's width (U5). -/
def State.violatingRead (s : State) (n : AccessSize) : Word :=
  BitVec.ofNat 32 (leNat ((List.range n.bytes).map s.freeByte))

/-- The bus answers a read with `v`; the next read has a fresh free value. -/
def State.answerRead (v : Word) (s : State) : State :=
  { s with busOut := some (.data v), freeCount := s.freeCount + 1 }

/-- The bus takes a write. -/
def State.answerWrite (s : State) : State :=
  { s with busOut := some .written }

/-- The access error of R69: the bus says so and nothing else changes. -/
def State.answerError (s : State) : State :=
  { s with busOut := some .error }

/-- `BusRead(addr, n)` (R66, R69, R236). -/
def State.busRead (s : State) (addr : Word) (n : AccessSize) : State :=
  match locate addr n with
  | none => s.answerError
  | some t =>
    if s.status.busy && !t.openToRead then s.violate.answerRead (s.violatingRead n)
    else s.answerRead (s.readTarget t n)

/-- `BusWrite(addr, n, v)` (R66, R69, R70, R236). -/
def State.busWrite (s : State) (addr : Word) (n : AccessSize) (v : Word) : State :=
  match locate addr n with
  | none => s.answerError
  | some t =>
    if s.status.busy && !t.openToWrite then s.violate.answerWrite
    else (s.writeTarget t n v).answerWrite

/-- One host access, performed completely (R66). -/
def State.access (s : State) : Access → State
  | .read addr n => s.busRead addr n
  | .write addr n v => s.busWrite addr n v

end Sys2Proof.Machine
end

