-- ==== Sys2Proof/Machine/Codec.lean ====
section
/-! DEFINITION. The BMP frame decoder and encoder, DECODE and ENCODE (40_codec.md). -/

namespace Sys2Proof.Machine

/-! ## The file layout (R110, R111) -/

/-- The bytes of one row of an 8-bit file (R111). -/
def stride8 (w : Nat) : Nat := (w + 3) / 4 * 4

/-- The padding of one row of a 24-bit file (R111). -/
def pad24 (w : Nat) : Nat := (4 - 3 * w % 4) % 4

/-- The bytes of one row of a 24-bit file (R111). -/
def stride24 (w : Nat) : Nat := 3 * w + pad24 w

/-! ## DECODE (R112 to R122) -/

/-- What a decoded file makes of the raster buffer (R121). -/
structure DecodedFile where
  width : Nat
  height : Nat
  channels : Nat
  pixoff : Nat
  datasize : Nat
  samples : List Byte
  /-- the 1078 bytes to capture, for an 8-bit file (R118) -/
  header : Option (List Byte)
  deriving DecidableEq, Repr

/-- R114: bit depth 8 or 24 and no compression. -/
def formatSupported (depth comp : Nat) : Bool :=
  (depth == 8 || depth == 24) && comp == 0

/-- R115: 1 channel for depth 8, 3 for depth 24. -/
def depthChannels (depth : Nat) : Nat := if depth = 8 then 1 else 3

/-- Where the pixel data starts (R110): byte 1078 of an 8-bit file, byte 54 of a 24-bit file. -/
def pixelStart (depth : Nat) : Nat := if depth = 8 then 1078 else 54

/-- R116, and parameter PIXOFF_POLICY of D22: whether the pixel-data-offset field is accepted. -/
def pixoffAccepted (depth pixoff : Nat) : Bool :=
  match Config.pixoffPolicy with
  | .fixed => true
  | .reject => pixoff == pixelStart depth

/-- R117: the number of pixel-data bytes of an 8-bit file: the field at offset 34 unless it is zero. -/
def dataSize8 (field need : Nat) : Nat := if field = 0 then need else field

/-- The raster of an 8-bit file (R119): the file's rows bottom row first, padding skipped. -/
def raster8 (s : State) (w h : Nat) : List Byte :=
  buildRaster w h 1 fun x y _ => s.fileByte (1078 + (h - 1 - y) * stride8 w + x)

/-- The raster of a 24-bit file (R120): rows bottom row first, blue, green, red in each triple, padding skipped. -/
def raster24 (s : State) (w h : Nat) : List Byte :=
  buildRaster w h 3 fun x y c => s.fileByte (54 + (h - 1 - y) * stride24 w + 3 * x + (2 - c))

/-- The 8-bit path (R117 to R119). -/
def decode8 (s : State) (w h : Nat) : Except ResultCode DecodedFile :=
  let need := stride8 w * h
  let ds := dataSize8 (s.fileField 34 4) need
  if s.fileLen < 1078 then .error .ioError
  else if ds < need then .error .ioError
  else if s.fileLen < 1078 + ds then .error .ioError
  else .ok ⟨w, h, 1, s.fileField 10 4, ds, raster8 s w h, some (s.fileBytesAt 0 1078)⟩

/-- The 24-bit path (R120). -/
def decode24 (s : State) (w h : Nat) : Except ResultCode DecodedFile :=
  let ds := stride24 w * h
  if s.fileLen < 54 + ds then .error .ioError
  else .ok ⟨w, h, 3, s.fileField 10 4, ds, raster24 s w h, none⟩

/-- The dimension check, the capacity check and the data (R115 to R120), for a file whose whole header is present. -/
def decodeSized (s : State) (depth : Nat) (w h : Int) : Except ResultCode DecodedFile :=
  if w ≤ 0 ∨ h ≤ 0 then .error .unsupportedFormat
  else if Config.rasterCap < w.toNat * h.toNat * depthChannels depth then .error .capacityExceeded
  else if pixoffAccepted depth (s.fileField 10 4) = false then .error .unsupportedFormat
  else if depth = 8 then decode8 s w.toNat h.toNat
  else decode24 s w.toNat h.toNat

/-- The steps of DECODE in the order of R112; the first that fails decides the code. After the 54-byte test the header
fields need no further bound check. -/
def decodeFile (s : State) : Except ResultCode DecodedFile :=
  match s.fileRead 0 2 with
  | .error e => .error e
  | .ok sig =>
    if sig ≠ 0x4D42 then .error .invalidSignature
    else if s.fileLen < 54 then .error .ioError
    else if formatSupported (s.fileField 28 2) (s.fileField 30 4) = false then .error .unsupportedFormat
    else decodeSized s (s.fileField 28 2) (sext32 (s.fileField 18 4)) (sext32 (s.fileField 22 4))

/-- The commit of R121: the new image, its shape, PIXOFF and DATASIZE; for an 8-bit file the captured header too
(R118), for a 24-bit file HDRVALID falls and HDR8 stays (R43). -/
def State.commitFile (f : DecodedFile) (s : State) : State :=
  { s with
    width := BitVec.ofNat 32 f.width
    height := BitVec.ofNat 32 f.height
    channels := BitVec.ofNat 32 f.channels
    status := { s.status with bufvalid := true, hdrvalid := f.header.isSome }
    pixoff := BitVec.ofNat 32 f.pixoff
    datasize := BitVec.ofNat 32 f.datasize
    hdr8 := match f.header with
      | some bytes => s.hdr8.write 0 bytes
      | none => s.hdr8
    rb := s.rb.write 0 f.samples }

/-- DECODE (R112). -/
def execDecode (s : State) : Host.Outcome State Fault Refusal :=
  match decodeFile s with
  | .error e => s.fail e
  | .ok f => (s.commitFile f).succeed

/-! ## ENCODE (R123 to R131) -/

/-- The regenerated 54-byte header (R125; R126 for a synthesized 1-channel buffer), its fields in the order of R125's
table, each little-endian (R73). -/
def bmpHeader (fileSize offset w h depth imageSize : Nat) : List Byte :=
  leBytes 2 0x4D42 ++ leBytes 4 fileSize ++ leBytes 4 0 ++ leBytes 4 offset ++ leBytes 4 40 ++ leBytes 4 w ++
  leBytes 4 h ++ leBytes 2 1 ++ leBytes 2 depth ++ leBytes 4 0 ++ leBytes 4 imageSize ++ leBytes 4 2835 ++
  leBytes 4 2835 ++ leBytes 4 0 ++ leBytes 4 0

/-- The grayscale identity colour table of R126: 256 entries (i, i, i, 0). -/
def identityColourTable : List Byte :=
  (List.range 1024).map fun k => if k % 4 = 3 then 0#8 else BitVec.ofNat 8 (k / 4)

/-- The 1078 bytes before the pixels of an 8-bit file (R126): the captured ones, not regenerated, or else a header and
the identity colour table. -/
def header8 (s : State) : List Byte :=
  if s.status.hdrvalid then (List.range 1078).map s.headerByte
  else
    bmpHeader (1078 + stride8 s.w * s.h) 1078 s.w s.h 8 (stride8 s.w * s.h) ++ identityColourTable

/-- The header of a 24-bit file (R125). -/
def header24 (s : State) : List Byte :=
  bmpHeader (54 + stride24 s.w * s.h) 54 s.w s.h 24 (stride24 s.w * s.h)

/-- The pixel bytes of an 8-bit file (R128): file row `r` is raster row `h - 1 - r`, padded with zeros. -/
def pixels8 (s : State) : List Byte :=
  (List.range (stride8 s.w * s.h)).map fun j =>
    let r := j / stride8 s.w
    let x := j % stride8 s.w
    if x < s.w then s.pixelSample x (s.h - 1 - r) 0 else 0#8

/-- The pixel bytes of a 24-bit file (R129): file row `r` is raster row `h - 1 - r`, in blue, green, red triples, padded
with zeros. -/
def pixels24 (s : State) : List Byte :=
  (List.range (stride24 s.w * s.h)).map fun j =>
    let r := j / stride24 s.w
    let o := j % stride24 s.w
    if o < 3 * s.w then s.pixelSample (o / 3) (s.h - 1 - r) (2 - o % 3) else 0#8

/-- `L` (R123), over unbounded integers. -/
def encodedLength (s : State) : Nat :=
  if s.ch = 3 then 54 + stride24 s.w * s.h else 1078 + stride8 s.w * s.h

/-- The file that ENCODE writes (R125 to R129). -/
def encodedFile (s : State) : List Byte :=
  if s.ch = 3 then header24 s ++ pixels24 s else header8 s ++ pixels8 s

/-- ENCODE (R123): EmptyBuffer, then IoError when the file is longer than FILE_CAP (R124), else the file's bytes and
FLEN (R127). -/
def execEncode (s : State) : Host.Outcome State Fault Refusal :=
  s.needBuffer
    (if Config.fileCap < encodedLength s then s.fail .ioError
     else
      State.succeed
        { s with fb := s.fb.write 0 (encodedFile s), flen := BitVec.ofNat 32 (encodedLength s) })

end Sys2Proof.Machine
end

