-- ==== Sys2Proof/Machine/Convolution.lean ====
section
/-! DEFINITION. The two-dimensional FIR engine: CONVOLVE and the five presets (42_convolution.md). Every sample read is one
of the raster as it was when the command was accepted (R154). -/

namespace Sys2Proof.Machine

/-- One term of the window sum (R153): the numerator of row `j`, column `i`, times the neighbour it lies over; a
neighbour outside the image contributes nothing. Row 0 is the row above the centre (R150). -/
def convTerm (s : State) (side : Nat) (num : Nat → Int) (x y c j i : Nat) : Int :=
  let n : Nat := (side - 1) / 2
  let xx : Int := (x : Int) + i - n
  let yy : Int := (y : Int) + j - n
  if 0 ≤ xx ∧ xx < s.w ∧ 0 ≤ yy ∧ yy < s.h then
    num (j * side + i) * ((s.pixelSample xx.toNat yy.toNat c).toNat : Int)
  else 0

/-- `acc` of R153, an unbounded integer. -/
def convAcc (s : State) (side : Nat) (num : Nat → Int) (x y c : Nat) : Int :=
  ((List.range side).map fun j => ((List.range side).map fun i => convTerm s side num x y c j i).sum).sum

/-- `conv_sample` of R153: the exact quotient rounded once, then clamped. -/
def convSample (s : State) (side : Nat) (num : Nat → Int) (den : Nat) (x y c : Nat) : Byte :=
  clampByte (round (convAcc s side num x y c) den)

/-- The effect of R152 for a valid kernel: all outputs from the old raster, stored at once (R154). -/
def State.convolveWith (s : State) (side : Nat) (num : Nat → Int) (den : Nat) : Host.Outcome State Fault Refusal :=
  (s.storeRaster (buildRaster s.w s.h s.ch (convSample s side num den))).succeed

/-- CONVOLVE (R152): EmptyBuffer, then InvalidKernel (R151), else the host's kernel over the raster. -/
def execConvolve (s : State) : Host.Outcome State Fault Refusal :=
  s.needBuffer
    (if s.kernelValid then s.convolveWith s.krows.toNat s.kernelNumerator s.kdiv.toNat else s.fail .invalidKernel)

/-- A preset (R155): a fixed 3x3 kernel, row-major, from constants inside the engine. -/
def State.preset (s : State) (numerators : List Int) (den : Nat) : Host.Outcome State Fault Refusal :=
  s.needBuffer (s.convolveWith 3 (fun e => numerators.getD e 0) den)

/-- R156. -/
def boxblurKernel : List Int := [1, 1, 1, 1, 1, 1, 1, 1, 1]

/-- R157. -/
def gaussKernel : List Int := [1, 2, 1, 2, 4, 2, 1, 2, 1]

/-- R158. -/
def outlineKernel : List Int := [-1, -1, -1, -1, 8, -1, -1, -1, -1]

/-- R159. -/
def embossKernel : List Int := [-2, -1, 0, -1, 1, 1, 0, 1, 2]

/-- R160. -/
def sharpenKernel : List Int := [0, -1, 0, -1, 5, -1, 0, -1, 0]

/-- BOXBLUR (R156), divisor 9. -/
def execBoxblur (s : State) : Host.Outcome State Fault Refusal :=
  s.preset boxblurKernel 9

/-- GAUSS (R157), divisor 16. -/
def execGauss (s : State) : Host.Outcome State Fault Refusal :=
  s.preset gaussKernel 16

/-- OUTLINE (R158), divisor 1. -/
def execOutline (s : State) : Host.Outcome State Fault Refusal :=
  s.preset outlineKernel 1

/-- EMBOSS (R159), divisor 1. -/
def execEmboss (s : State) : Host.Outcome State Fault Refusal :=
  s.preset embossKernel 1

/-- SHARPEN (R160), divisor 1. -/
def execSharpen (s : State) : Host.Outcome State Fault Refusal :=
  s.preset sharpenKernel 1

end Sys2Proof.Machine
end

