-- ==== Sys2Proof/Machine/Equalization.lean ====
section
/-! DEFINITION. The equalization unit, EQUALIZE and HISTO: histogram, CDF, remap LUT and the RGB/YUV channel converter
(43_equalization.md). -/

namespace Sys2Proof.Machine

/-! ## Channel converter (R177, R180) -/

/-- `Yn` (R177): 1000 times the luma. -/
def lumaN (r g b : Nat) : Int := 299 * (r : Int) + 587 * g + 114 * b

/-- `Un` (R177): 100000 times U. -/
def chromaUN (r g b : Nat) : Int := -14713 * (r : Int) - 28886 * g + 43600 * b

/-- `Vn` (R177): 100000 times V. -/
def chromaVN (r g b : Nat) : Int := 61500 * (r : Int) - 51499 * g - 10001 * b

/-- `Ybin` (R177): the luma rounded and clamped to 0..255. -/
def lumaBin (r g b : Nat) : Nat :=
  (clamp (round (lumaN r g b) 1000) 0 255).toNat

/-- `E` of R180. -/
def yuvScale : Nat := 10000000000

/-- The red sample from the remapped luma and the old pixel's V (R180). -/
def backRed (y : Nat) (vn : Int) : Byte :=
  clampByte (round ((y : Int) * yuvScale + 113983 * vn) yuvScale)

/-- The green sample (R180). -/
def backGreen (y : Nat) (un vn : Int) : Byte :=
  clampByte (round ((y : Int) * yuvScale - 39465 * un - 58060 * vn) yuvScale)

/-- The blue sample (R180). -/
def backBlue (y : Nat) (un : Int) : Byte :=
  clampByte (round ((y : Int) * yuvScale + 203211 * un) yuvScale)

/-! ## Histogram and CDF (R171, R172) -/

/-- `Ybin(p)` of pixel `p` (R177). -/
def State.pixelBin (s : State) (p : Nat) : Nat :=
  lumaBin (s.sample (3 * p)).toNat (s.sample (3 * p + 1)).toNat (s.sample (3 * p + 2)).toNat

/-- The levels that the histogram counts (R171): every sample of a 1-channel buffer, the binned luma of every pixel of a
3-channel one. -/
def State.levels (s : State) : List Nat :=
  if s.ch = 1 then (List.range s.nSamples).map fun k => (s.sample k).toNat
  else (List.range s.total).map s.pixelBin

/-- The histogram of a list of levels (R171): how often each of 0..255 occurs. -/
def histogram (levels : List Nat) : List Nat :=
  (List.range 256).map fun v => levels.count v

/-- The running sum of a list, on top of `acc` (R172). -/
def runningSum : Nat → List Nat → List Nat
  | _, [] => []
  | acc, h :: hs => (acc + h) :: runningSum (acc + h) hs

/-- The CDF of a histogram (R172). -/
def cdfOf (hist : List Nat) : List Nat := runningSum 0 hist

/-- Write all 256 entries of HIST and CDF for the given levels (R171, R172, R183). -/
def State.storeTables (levels : List Nat) (s : State) : State :=
  { s with
    hist := s.hist.write 0 ((histogram levels).map (BitVec.ofNat 32))
    cdf := s.cdf.write 0 ((cdfOf (histogram levels)).map (BitVec.ofNat 32)) }

/-! ## The remap tables (R173, R174, R178) -/

/-- `cdf_min` of the 1-channel path (R173): the first CDF entry that is not 0. -/
def firstNonzero (cdf : List Nat) : Nat :=
  (cdf.find? fun c => c != 0).getD 0

/-- `lut1[i]` for a CDF entry `c` (R174). -/
def lut1Entry (total cmin c : Nat) : Nat :=
  if total = cmin then 0
  else if c < cmin then 0
  else (round (255 * ((c : Int) - cmin)) (total - cmin)).toNat

/-- The LUT of the 1-channel path (R174). -/
def lut1 (total : Nat) (cdf : List Nat) : List Nat :=
  cdf.map (lut1Entry total (firstNonzero cdf))

/-- `lut3[i]` for a CDF entry `c` (R178). -/
def lut3Entry (total c0 c : Nat) : Nat :=
  if total = c0 then 0 else (round (255 * ((c : Int) - c0)) (total - c0)).toNat

/-- The LUT of the 3-channel path (R178): `cdf[0]` is the minimum, not the first nonzero entry (R181). -/
def lut3 (total : Nat) (cdf : List Nat) : List Nat :=
  cdf.map (lut3Entry total (cdf.getD 0 0))

/-! ## EQUALIZE and HISTO -/

/-- The remapped sample of the 1-channel path (R175). -/
def remap1 (s : State) (lut : List Nat) (k : Nat) : Byte :=
  BitVec.ofNat 8 (lut.getD (s.sample k).toNat 0)

/-- The new sample `k` of the 3-channel path: its pixel's luma is remapped (R179) and its own channel converted back
(R180), U and V being those of the old pixel (R176). -/
def remap3 (s : State) (lut : List Nat) (k : Nat) : Byte :=
  let p := k / 3
  let r := (s.sample (3 * p)).toNat
  let g := (s.sample (3 * p + 1)).toNat
  let b := (s.sample (3 * p + 2)).toNat
  let y := lut.getD (lumaBin r g b) 0
  if k % 3 = 0 then backRed y (chromaVN r g b)
  else if k % 3 = 1 then backGreen y (chromaUN r g b) (chromaVN r g b)
  else backBlue y (chromaUN r g b)

/-- Store a remap table and the raster remapped through it. -/
def State.storeRemap (lut : List Nat) (samples : List Byte) (s : State) : State :=
  { s with lut := s.lut.write 0 (lut.map (BitVec.ofNat 8)), rb := s.rb.write 0 samples }

/-- The 1-channel path of R170. -/
def State.equalize1 (s : State) : State :=
  let lut := lut1 s.total (cdfOf (histogram s.levels))
  (s.storeTables s.levels).storeRemap lut ((List.range s.nSamples).map (remap1 s lut))

/-- The 3-channel path of R170. -/
def State.equalize3 (s : State) : State :=
  let lut := lut3 s.total (cdfOf (histogram s.levels))
  (s.storeTables s.levels).storeRemap lut ((List.range s.nSamples).map (remap3 s lut))

/-- EQUALIZE (R170). -/
def execEqualize (s : State) : Host.Outcome State Fault Refusal :=
  s.needBuffer (if s.ch = 1 then s.equalize1.succeed else s.equalize3.succeed)

/-- HISTO (R183): only the histogram and the CDF. -/
def execHisto (s : State) : Host.Outcome State Fault Refusal :=
  s.needBuffer (s.storeTables s.levels).succeed

end Sys2Proof.Machine
end

