-- ==== Sys2Proof/Machine/Point.lean ====
section
/-! DEFINITION. The point operations NEGATIVE, GRAYSCALE, BRIGHT and THRESH (41_point_ops.md). Each output sample is a
function of the old raster, so the order of the spec's in-place loop cannot be seen (20_memory.md R84). -/

namespace Sys2Proof.Machine

/-- The second test of a command bound to one channel count (R140 (b), R215): ShapeMismatch. -/
def State.needChannels (s : State) (ch : Nat) (body : Host.Outcome State Fault Refusal) :
    Host.Outcome State Fault Refusal :=
  if s.ch = ch then body else s.fail .shapeMismatch

/-- The samples `f 0 .. f (N-1)` in place of the old ones, and a successful completion. -/
def State.mapRaster (s : State) (f : Nat → Byte) : Host.Outcome State Fault Refusal :=
  (s.storeRaster ((List.range s.nSamples).map f)).succeed

/-- R141: `255 - sample`. -/
def negativeSample (v : Byte) : Byte :=
  BitVec.ofNat 8 (255 - v.toNat)

/-- R142: `(r+g+b)/3` with integer truncation, of the pixel that sample `k` belongs to. -/
def graySample (s : State) (k : Nat) : Byte :=
  let p := k / 3
  BitVec.ofNat 8 (((s.sample (3 * p)).toNat + (s.sample (3 * p + 1)).toNat + (s.sample (3 * p + 2)).toNat) / 3)

/-- R143: `clamp(sample + delta, 0, 255)`, the sum in unbounded integers. -/
def brightSample (delta : Int) (v : Byte) : Byte :=
  clampByte ((v.toNat : Int) + delta)

/-- R144: `255 if sample >= t else 0`, compared as mathematical integers. -/
def threshSample (t : Int) (v : Byte) : Byte :=
  if t ≤ (v.toNat : Int) then 255#8 else 0#8

/-- NEGATIVE (R141). -/
def execNegative (s : State) : Host.Outcome State Fault Refusal :=
  s.needBuffer (s.mapRaster fun k => negativeSample (s.sample k))

/-- GRAYSCALE (R142), on 3 channels only; the buffer stays a 3-channel buffer. -/
def execGrayscale (s : State) : Host.Outcome State Fault Refusal :=
  s.needBuffer (s.needChannels 3 (s.mapRaster (graySample s)))

/-- BRIGHT (R143). -/
def execBright (delta : Int) (s : State) : Host.Outcome State Fault Refusal :=
  s.needBuffer (s.mapRaster fun k => brightSample delta (s.sample k))

/-- THRESH (R144), on 1 channel only. -/
def execThresh (t : Int) (s : State) : Host.Outcome State Fault Refusal :=
  s.needBuffer (s.needChannels 1 (s.mapRaster fun k => threshSample t (s.sample k)))

end Sys2Proof.Machine
end

