-- ==== Sys2Proof/Machine/System.lean ====
section
/-! DEFINITION. The system commands NOP, SETSHAPE and RELEASE (44_system.md). -/

namespace Sys2Proof.Machine

/-- NOP (R190): the completion update and nothing else. -/
def execNop (s : State) : Host.Outcome State Fault Refusal :=
  s.succeed

/-- SETSHAPE's tests in their order (R192, R215): the channel count, then the dimensions, then the capacity; `ok` when
none fails. The product is over unbounded integers. -/
def setshapeCheck (w h ch : Nat) : ResultCode :=
  if ch ≠ 1 ∧ ch ≠ 3 then .shapeMismatch
  else if w = 0 ∨ h = 0 then .unsupportedFormat
  else if Config.rasterCap < w * h * ch then .capacityExceeded
  else .ok

/-- SETSHAPE (R192): a new raster buffer of the shape of ARGW, ARGH, ARGCH with all samples 0 and no captured header. -/
def execSetshape (s : State) : Host.Outcome State Fault Refusal :=
  match setshapeCheck s.argw.toNat s.argh.toNat s.argch.toNat with
  | .ok =>
    State.succeed
      { s with
        width := s.argw
        height := s.argh
        channels := s.argch
        status := { s.status with bufvalid := true, hdrvalid := false }
        rb := s.rb.write 0 (List.replicate (s.argw.toNat * s.argh.toNat * s.argch.toNat) 0#8) }
  | r => s.fail r

/-- RELEASE (R193): no buffer, no captured header, the shape 0; no byte is cleared. -/
def execRelease (s : State) : Host.Outcome State Fault Refusal :=
  State.succeed
    { s with
      width := 0#32
      height := 0#32
      channels := 0#32
      status := { s.status with bufvalid := false, hdrvalid := false } }

end Sys2Proof.Machine
end

