-- ==== Sys2Proof/Machine/Dispatch.lean ====
section
/-! DEFINITION. One arm for each command: the meaning it has. -/

namespace Sys2Proof.Machine

/-- What performing a command does to the state (R81, R205). -/
def exec (i : Instr) (s : State) : Host.Outcome State Fault Refusal :=
  match i with
  | .nop => Sys2Proof.Machine.execNop s
  | .decode => Sys2Proof.Machine.execDecode s
  | .encode => Sys2Proof.Machine.execEncode s
  | .setshape => Sys2Proof.Machine.execSetshape s
  | .release => Sys2Proof.Machine.execRelease s
  | .negative => Sys2Proof.Machine.execNegative s
  | .grayscale => Sys2Proof.Machine.execGrayscale s
  | .bright delta => Sys2Proof.Machine.execBright delta s
  | .thresh t => Sys2Proof.Machine.execThresh t s
  | .convolve => Sys2Proof.Machine.execConvolve s
  | .boxblur => Sys2Proof.Machine.execBoxblur s
  | .gauss => Sys2Proof.Machine.execGauss s
  | .outline => Sys2Proof.Machine.execOutline s
  | .emboss => Sys2Proof.Machine.execEmboss s
  | .sharpen => Sys2Proof.Machine.execSharpen s
  | .equalize => Sys2Proof.Machine.execEqualize s
  | .histo => Sys2Proof.Machine.execHisto s

end Sys2Proof.Machine
end

