-- ==== Sys2Proof/Machine/Engine.lean ====
section
/-! DEFINITION. The engine's turn (20_memory.md R81, 30_encoding.md R93, R94). -/

namespace Sys2Proof.Machine

/-- Perform the command word in IR: decode it now, not at acceptance (R93); an illegal word completes with
IllegalCommand and changes nothing else (R94). -/
def State.perform (s : State) : Host.Outcome State Fault Refusal :=
  match decode s.ir with
  | .ok i => exec i s
  | .error _ => s.fail .illegalCommand

/-- The engine's turn: the command in flight completes, as one indivisible step (R81); an idle engine does nothing
(R219). -/
def State.engineTurn (s : State) : Host.Outcome State Fault Refusal :=
  if s.status.busy then s.perform else .next s

/-- What one event does (R80, R81, R230). -/
def State.happen (s : State) : Event → Host.Outcome State Fault Refusal
  | .access a => .next (s.access a)
  | .engine => s.engineTurn
  | .rst => .next s.applyReset

/-- The state in which the word's 32 bits are the command accepted and the engine has the turn. -/
def State.withCommand (s : State) (w : Word) : State :=
  { s with ir := w, status := { s.status with busy := true }, agenda := .engine :: s.agenda }

end Sys2Proof.Machine
end

