-- ==== Sys2Proof/Machine/Step.lean ====
section
/-! DEFINITION. One step of the machine: the first event of the agenda happens; with nothing on the agenda it is the
engine's turn, so a command in flight always completes (20_memory.md R81; log entry 1). -/

namespace Sys2Proof.Machine

/-- One step. -/
def step (s : State) : Host.Outcome State Fault Refusal :=
  match s.agenda with
  | [] => s.engineTurn
  | e :: rest => State.happen { s with agenda := rest } e

/-- The state in which the very next step performs the command word `w`: accepted in IR, BUSY 1, the engine's turn (log
entry 13). -/
def State.withFetchWord (s : State) (nbits w : Nat) : State :=
  s.withCommand (tableWord nbits w)

end Sys2Proof.Machine
end

