-- ==== Sys2Proof/Machine/Host.lean ====
section
/-! DEFINITION. The host notation of 30_encoding.md R96 and the pseudo-instructions of R97: what bus accesses each line of
a host program stands for, as entries of the agenda. -/

namespace Sys2Proof.Machine

/-- One line of a host program (R96). -/
inductive HostLine where
  /-- `wr8`, `wr16`, `wr32` -/
  | wr (n : AccessSize) (addr v : Word)
  /-- `rd8`, `rd16`, `rd32` -/
  | rd (n : AccessSize) (addr : Word)
  /-- `wait` -/
  | wait
  /-- `<MNEMONIC>` or `<MNEMONIC> #<imm>` -/
  | command (i : Instr)
  /-- `file <b0> <b1> ...` -/
  | file (bytes : List Byte)
  /-- `raster <s0> <s1> ...` -/
  | raster (samples : List Byte)
  /-- `kernel <side>, <div>, <k0> <k1> ...` -/
  | kernel (side div : Word) (numerators : List Int)
  deriving DecidableEq, Repr

/-- `wr32` at an address given as a number. -/
def wr32 (addr : Nat) (v : Word) : Event :=
  .access (.write (BitVec.ofNat 32 addr) .word v)

/-- `wr8` at an address given as a number. -/
def wr8 (addr : Nat) (v : Byte) : Event :=
  .access (.write (BitVec.ofNat 32 addr) .byte (v.zeroExtend 32))

/-- One poll of STATUS. -/
def pollStatus : Event := .access (.read 4#32 .word)

/-- `wait` (R96): polls of STATUS until BUSY reads 0, the command completing after `polls` of them (U6: any number). -/
def waitFor (polls : Nat) : List Event :=
  List.replicate polls pollStatus ++ [.engine, pollStatus]

/-- Byte writes of a list at consecutive addresses from `addr` on. -/
def writeBytes (addr : Nat) : List Byte → List Event
  | [] => []
  | b :: bs => wr8 addr b :: writeBytes (addr + 1) bs

/-- Word writes of kernel numerators, each modulo 2^32, from `addr` on. -/
def writeNumerators (addr : Nat) : List Int → List Event
  | [] => []
  | k :: ks => wr32 addr (BitVec.ofInt 32 k) :: writeNumerators (addr + 4) ks

/-- What a line expands to (R96, R97), each `wait` in it ending after `polls` polls that find the engine busy. -/
def HostLine.expand (polls : Nat) : HostLine → List Event
  | .wr n addr v => [.access (.write addr n v)]
  | .rd n addr => [.access (.read addr n)]
  | .wait => waitFor polls
  | .command i => wr32 0 (encode i) :: waitFor polls
  | .file bytes => writeBytes 0x10000000 bytes ++ [wr32 0x1C (BitVec.ofNat 32 bytes.length)]
  | .raster samples => writeBytes 0x20000000 samples
  | .kernel side div numerators =>
    [wr32 0x2C side, wr32 0x30 side, wr32 0x34 div] ++ writeNumerators 0x1000 numerators

/-- A host program as an agenda. -/
def hostProgram (polls : Nat) (lines : List HostLine) : List Event :=
  lines.flatMap (HostLine.expand polls)

end Sys2Proof.Machine
end

