-- ==== Sys2Proof/Safety.lean ====
section
/-! DEFINITION. What a sound state of the engine is (the invariants that the rules state of the registers and memories),
which states a run reaches, and which host programs obey the busy rule. -/

namespace Sys2Proof.Machine

/-! ## Sound states -/

/-- Every listed index of a memory is below `n`. -/
abbrev Memory.within {w : Nat} (n : Nat) (m : Memory w) : Prop :=
  ∀ c ∈ m, c.1 < n

/-- Every memory is in canonical form and lists only the items it has (R40 to R45). -/
structure State.MemoriesOk (s : State) : Prop where
  kcoef : s.kcoef.wf ∧ s.kcoef.within (Config.kmax * Config.kmax)
  hist : s.hist.wf ∧ s.hist.within 256
  cdf : s.cdf.wf ∧ s.cdf.within 256
  lut : s.lut.wf ∧ s.lut.within 256
  hdr8 : s.hdr8.wf ∧ s.hdr8.within 1078
  fb : s.fb.wf ∧ s.fb.within Config.fileCap
  rb : s.rb.wf ∧ s.rb.within Config.rasterCap

/-- R26, R27: with a buffer the shape is positive, of 1 or 3 channels, and fits; without one the three registers read 0
and there is no captured header. -/
structure State.ShapeOk (s : State) : Prop where
  loaded : s.status.bufvalid = true →
    1 ≤ s.w ∧ 1 ≤ s.h ∧ (s.ch = 1 ∨ s.ch = 3) ∧ s.w * s.h * s.ch ≤ Config.rasterCap
  empty : s.status.bufvalid = false → s.w = 0 ∧ s.h = 0 ∧ s.ch = 0 ∧ s.status.hdrvalid = false

/-- R43, R130: with HDRVALID the buffer is a 1-channel one, every byte of HDR8 has been captured, and what was captured
is the header of an uncompressed 8-bit file of the buffer's shape. -/
structure State.HeaderOk (s : State) : Prop where
  oneChannel : s.status.hdrvalid = true → s.ch = 1
  captured : s.status.hdrvalid = true → ∀ k < 1078, (s.hdr8.get? k).isSome
  signature : s.status.hdrvalid = true → s.headerField 0 2 = 0x4D42
  depth : s.status.hdrvalid = true → s.headerField 28 2 = 8
  compression : s.status.hdrvalid = true → s.headerField 30 4 = 0
  width : s.status.hdrvalid = true → s.headerField 18 4 = s.w
  height : s.status.hdrvalid = true → s.headerField 22 4 = s.h

/-- R27: every sample of the image has a value that something wrote. -/
def State.SamplesOk (s : State) : Prop :=
  ∀ k < s.nSamples, (s.rb.get? k).isSome

/-- R41, R172: HIST and CDF have not been written since reset, or CDF is the running sum of HIST. -/
def State.TablesOk (s : State) : Prop :=
  (s.hist = [] ∧ s.cdf = []) ∨
    ((s.cdfEntry 0).toNat = (s.histEntry 0).toNat ∧
      ∀ i < 255, (s.cdfEntry (i + 1)).toNat = (s.cdfEntry i).toNat + (s.histEntry (i + 1)).toNat)

/-- A sound state: all of the above, and FLEN within the file buffer (R28). -/
structure State.Inv (s : State) : Prop where
  memories : s.MemoriesOk
  shape : s.ShapeOk
  header : s.HeaderOk
  samples : s.SamplesOk
  tables : s.TablesOk
  fileLen : s.fileLen ≤ Config.fileCap

/-! ## Runs -/

/-- The states that a run reaches: reset with any agenda, and whatever a step answers. -/
inductive Reachable : State → Prop where
  | start (agenda : List Event) : Reachable { State.reset with agenda := agenda }
  | next {s t : State} : Reachable s → step s = .next t → Reachable t

/-! ## Host programs that obey the busy rule -/

/-- A line that starts no command without waiting for it (R236: "Software obeys it by ending every command with the
`wait`"): not a raw write at the address of CMD, and no kernel with more numerators than KCOEF has entries (R40), whose
writes could come round to that address. -/
def HostLine.waitsForCommands : HostLine → Bool
  | .wr _ addr _ => addr != 0#32
  | .rd _ _ => true
  | .wait => true
  | .command _ => true
  | .file _ => true
  | .raster _ => true
  | .kernel _ _ numerators => decide (numerators.length ≤ Config.kmax * Config.kmax)

end Sys2Proof.Machine
end

