-- ==== Sys2Proof/Certificates/Slice0/Obligations.lean ====
section
/-! DEFINITION. The statements about the engine, from the numbered rules of spec/. The helpers under `Sys2Proof.Claims`
spell out, in terms of the state's fields alone, what the rules say of a completion, a raster, a window sum and a table. -/

namespace Sys2Proof.Claims

open Sys2Proof.Machine

/-! ## What a completion leaves (60_exceptions.md R205, R206) -/

/-- The flags after a success: BUSY 0, DONE 1, all else as it was. -/
abbrev okStatus (t : Status) : Status := { t with busy := false, done := true }

/-- The flags after a failure: BUSY 0, DONE 1, ERRF 1, all else as it was. -/
abbrev errStatus (t : Status) : Status := { t with busy := false, done := true, errf := true }

/-- The command fails with code `r`, and nothing but the completion update happens. -/
def FailsWith (i : Instr) (s : State) (r : ResultCode) : Prop :=
  exec i s = .next { s with result := r, status := errStatus s.status }

/-- Of all the state, only samples, RESULT and the completion flags differ (the frame of a command that only rewrites
the raster). -/
def ChangesOnlyRaster (s t : State) : Prop :=
  t = { s with rb := t.rb, result := .ok, status := okStatus s.status }

/-- The command succeeds, sample `k` of the image becomes `f k`, and nothing else changes: not even the samples beyond
the image, which is the model's choice (log entry 8). -/
def RewritesSamples (i : Instr) (s : State) (f : Nat → Byte) : Prop :=
  ∃ t, exec i s = .next t ∧ ChangesOnlyRaster s t ∧ ∀ k, t.sample k = if k < s.nSamples then f k else s.sample k

/-! ## Arithmetic -/

/-- The integer nearest to `num / den`, a tie going up, clamped to 0..255: for `num ≤ 0` it is 0. -/
def roundClamp (num : Int) (den : Nat) : Byte :=
  if num ≤ 0 then 0#8 else BitVec.ofNat 8 (min 255 ((2 * num.toNat + den) / (2 * den)))

/-- The window sum of 42_convolution.md R153, in natural coordinates: row `j`, column `i` of the kernel lies over the
sample at (x + i - n, y + j - n), and a term outside the image is omitted. -/
def windowSum (s : State) (side : Nat) (num : Nat → Int) (x y c : Nat) : Int :=
  let n := (side - 1) / 2
  ∑ j ∈ Finset.range side, ∑ i ∈ Finset.range side,
    if n ≤ x + i ∧ x + i < s.w + n ∧ n ≤ y + j ∧ y + j < s.h + n then
      num (j * side + i) * ((s.sample (((y + j - n) * s.w + (x + i - n)) * s.ch + c)).toNat : Int)
    else 0

/-- The command succeeds, every sample becomes the rounded and clamped quotient of its window sum, and nothing else
changes: not even the samples beyond the image, which is the model's choice (log entry 8). -/
def Convolves (i : Instr) (s : State) (side : Nat) (num : Nat → Int) (den : Nat) : Prop :=
  ∃ t, exec i s = .next t ∧ ChangesOnlyRaster s t ∧
    (∀ x < s.w, ∀ y < s.h, ∀ c < s.ch,
      t.sample ((y * s.w + x) * s.ch + c) = roundClamp (windowSum s side num x y c) den) ∧
    ∀ k, s.nSamples ≤ k → t.sample k = s.sample k

/-- The five presets (R156 to R160): numerators row-major, and divisor. -/
def presets : List (Instr × List Int × Nat) :=
  [(.boxblur, [1, 1, 1, 1, 1, 1, 1, 1, 1], 9), (.gauss, [1, 2, 1, 2, 4, 2, 1, 2, 1], 16),
   (.outline, [-1, -1, -1, -1, 8, -1, -1, -1, -1], 1), (.emboss, [-2, -1, 0, -1, 1, 1, 0, 1, 2], 1),
   (.sharpen, [0, -1, 0, -1, 5, -1, 0, -1, 0], 1)]

/-! ## Histogram and CDF (43_equalization.md) -/

/-- `Ybin` of pixel `p` in the integer form of R177. -/
def binnedLuma (s : State) (p : Nat) : Nat :=
  (2 * (299 * (s.sample (3 * p)).toNat + 587 * (s.sample (3 * p + 1)).toNat + 114 * (s.sample (3 * p + 2)).toNat) + 1000)
    / 2000

/-- How many samples (1 channel) or pixels (3 channels) have level `v` (R171). -/
def levelCount (s : State) (v : Nat) : Nat :=
  if s.ch = 1 then ((Finset.range s.nSamples).filter fun k => (s.sample k).toNat = v).card
  else ((Finset.range s.total).filter fun p => binnedLuma s p = v).card

/-- `t` holds the histogram of `s`'s raster (R171) and its running sum (R172). -/
def HoldsTables (s t : State) : Prop :=
  (∀ v < 256, (t.histEntry v).toNat = levelCount s v) ∧
  (t.cdfEntry 0).toNat = (t.histEntry 0).toNat ∧
  ∀ i < 255, (t.cdfEntry (i + 1)).toNat = (t.cdfEntry i).toNat + (t.histEntry (i + 1)).toNat

/-! ## Files (40_codec.md) -/

/-- The sizes of R111. -/
def row8 (w : Nat) : Nat := (w + 3) / 4 * 4

/-- The size of a 24-bit row (R111). -/
def row24 (w : Nat) : Nat := 3 * w + (4 - 3 * w % 4) % 4

/-- The file's signed width and height fields (R114). -/
def widthField (s : State) : Int := (BitVec.ofNat 32 (s.fileField 18 4)).toInt

/-- See `widthField`. -/
def heightField (s : State) : Int := (BitVec.ofNat 32 (s.fileField 22 4)).toInt

/-- A file whose signature, header length, depth and compression are accepted (R113, R114). -/
structure HeaderAccepted (s : State) (depth : Nat) : Prop where
  long : 54 ≤ s.fileLen
  signature : s.fileByte 0 = 0x42#8 ∧ s.fileByte 1 = 0x4D#8
  depth : s.fileField 28 2 = depth
  compression : s.fileField 30 4 = 0

/-- A file that moreover has positive dimensions `w` and `h` that fit `ch` channels (R115). -/
structure SizeAccepted (s : State) (depth w h ch : Nat) : Prop extends HeaderAccepted s depth where
  width : widthField s = w
  height : heightField s = h
  positive : 0 < w ∧ 0 < h
  fits : w * h * ch ≤ Config.rasterCap

/-- The header table of R125, each field at its offset, for the given values. -/
def HeaderFields (t : State) (fileSize offset w h depth imageSize : Nat) : Prop :=
  t.fileField 0 2 = 0x4D42 ∧ t.fileField 2 4 = fileSize ∧ t.fileField 6 4 = 0 ∧ t.fileField 10 4 = offset ∧
  t.fileField 14 4 = 40 ∧ t.fileField 18 4 = w ∧ t.fileField 22 4 = h ∧ t.fileField 26 2 = 1 ∧
  t.fileField 28 2 = depth ∧ t.fileField 30 4 = 0 ∧ t.fileField 34 4 = imageSize ∧ t.fileField 38 4 = 2835 ∧
  t.fileField 42 4 = 2835 ∧ t.fileField 46 4 = 0 ∧ t.fileField 50 4 = 0

/-- The frame of a successful ENCODE (R127): only file bytes, FLEN, RESULT and the completion flags differ. -/
def ChangesOnlyFile (s t : State) (len : Nat) : Prop :=
  t = { s with fb := t.fb, flen := BitVec.ofNat 32 len, result := .ok, status := okStatus s.status } ∧
  ∀ k, len ≤ k → t.fileByte k = s.fileByte k

/-! ## The bus -/

/-- One step in which the host makes an access. -/
def onBus (s : State) (a : Access) : Host.Outcome State Fault Refusal :=
  step { s with agenda := .access a :: s.agenda }

/-- One step in which the host reads and the bus answers `v`, and nothing changes but the model's bus field and read
counter (log entries 2 and 5). -/
def Answers (s : State) (addr : Word) (n : AccessSize) (v : Word) : Prop :=
  onBus s (.read addr n) = .next { s with busOut := some (.data v), freeCount := s.freeCount + 1 }

/-- The bytes `f 0`, `f 1`, … of an access, lowest address in the lowest bits (R68). -/
def littleEndian (n : AccessSize) (f : Nat → Byte) : Word :=
  BitVec.ofNat 32 (∑ j ∈ Finset.range n.bytes, (f j).toNat * 256 ^ j)

/-- The windows of 20_memory.md R60: first address, size, and whether the unit is a 32-bit word. -/
def windows : List (Nat × Nat × Bool) :=
  [(0x0, 0x50, true), (0x400, 0x400, true), (0x800, 0x400, true), (0xC00, 0x100, false), (0x1000, 4 * 7 * 7, true),
   (0x5000, 1078, false), (0x10000000, 16777216, false), (0x20000000, 16777216, false)]

/-- The accesses that are no access error (R60, R67): wholly inside one window, naturally aligned, and 4 bytes wide in a
word window. -/
def Mapped (addr : Word) (n : AccessSize) : Prop :=
  ∃ win ∈ windows, win.1 ≤ addr.toNat ∧ addr.toNat + n.bytes ≤ win.1 + win.2.1 ∧ addr.toNat % n.bytes = 0 ∧
    (win.2.2 = true → n = .word)

/-- The word addresses that stay open while a command is in flight (R236), for a read and for a write. -/
def openReads : List Word := [0x04#32, 0x0C#32, 0x40#32, 0x44#32, 0x48#32, 0x4C#32]

/-- See `openReads`. -/
def openWrites : List Word := [0x04#32, 0x0C#32]

/-- What a read of each register returns (10_state.md R22 to R33), by its offset. -/
def registerReads (s : State) : List (Word × Word) :=
  [(0x00#32, s.ir), (0x04#32, s.status.toWord), (0x08#32, s.result.code.zeroExtend 32), (0x0C#32, s.irqen.toWord),
   (0x10#32, s.width), (0x14#32, s.height), (0x18#32, s.channels), (0x1C#32, s.flen), (0x20#32, s.argw),
   (0x24#32, s.argh)] ++
  [(0x28#32, s.argch), (0x2C#32, s.krows), (0x30#32, s.kcols), (0x34#32, s.kdiv.zeroExtend 32), (0x38#32, s.pixoff),
   (0x3C#32, s.datasize), (0x40#32, 0x49504537#32), (0x44#32, 16777216#32), (0x48#32, 16777216#32), (0x4C#32, 7#32)]

/-- What a write of `v` at each register but CMD and STATUS makes of the state (R24 to R33, R70). -/
def registerWrites (s : State) (v : Word) : List (Word × State) :=
  [(0x08#32, s), (0x0C#32, { s with irqen := ⟨v.getLsbD 1, v.getLsbD 2, v.getLsbD 3⟩ }), (0x10#32, s), (0x14#32, s),
   (0x18#32, s), (0x1C#32, { s with flen := if v.toNat ≤ 16777216 then v else 16777216#32 }),
   (0x20#32, { s with argw := v }), (0x24#32, { s with argh := v }), (0x28#32, { s with argch := v })] ++
  [(0x2C#32, { s with krows := v }), (0x30#32, { s with kcols := v }), (0x34#32, { s with kdiv := v.setWidth 16 }),
   (0x38#32, s), (0x3C#32, s), (0x40#32, s), (0x44#32, s), (0x48#32, s), (0x4C#32, s)]

end Sys2Proof.Claims

open Sys2Proof Sys2Proof.Machine Sys2Proof.Claims

/-! # Encoding (30_encoding.md) -/

/-- R90, R91, R93: decoding the word of any well-formed command gives that command, with its operand. -/
def Obligations.DecodeOfEncodeIsIdentity : Prop :=
  ∀ i : Instr, i.wellFormed = true → decode (encode i) = .ok i

/-- R93: a word that decodes is the word of the command it decodes to, and that command is well formed. -/
def Obligations.EncodeOfDecodeIsIdentity : Prop :=
  ∀ (w : Word) (i : Instr), decode w = .ok i → i.wellFormed = true ∧ encode i = w

/-- R92, R93: a word decodes exactly when one row of the opcode map covers it, and to that row's command; a word that
does not decode is covered by no row. -/
def Obligations.EveryWordIsOneRowOrIllegal : Prop :=
  ∀ w : Word, match decode w with
    | .ok i => (opcodeRows.filter fun r => r.covers w).map (·.mnemonic) = [i.mnemonic]
    | .error _ => opcodeRows.filter (fun r => r.covers w) = []

/-- R94: which words are illegal, and that the engine's turn completes an illegal word with code 7 and no other change:
with an empty agenda, and with the turn first on a longer one. The agenda is the model's choice (log entry 1). -/
def Obligations.IllegalWordsCompleteWithIllegalCommand : Prop :=
  (∀ w : Word, (∃ e, decode w = .error e) ↔
    ((w >>> 8) &&& 0xFF#32 ≠ 0#32 ∨
      (0x05 ≤ w.toNat % 256 ∧ w.toNat % 256 ≤ 0x0F) ∨ (0x14 ≤ w.toNat % 256 ∧ w.toNat % 256 ≤ 0x1F) ∨
      (0x26 ≤ w.toNat % 256 ∧ w.toNat % 256 ≤ 0x2F) ∨ 0x32 ≤ w.toNat % 256 ∨
      (w.toNat % 256 ≠ 0x12 ∧ w.toNat % 256 ≠ 0x13 ∧ w >>> 16 ≠ 0#32))) ∧
  ResultCode.illegalCommand.code = 7#8 ∧
  ∀ (s : State) (e : DecodeError), s.status.busy = true → decode s.ir = .error e →
    (s.agenda = [] → step s = .next { s with result := .illegalCommand, status := errStatus s.status }) ∧
    ∀ rest, s.agenda = .engine :: rest →
      step s = .next { s with agenda := rest, result := .illegalCommand, status := errStatus s.status }

/-- R91, R92: words written out from the encoding table, and what they are. -/
def Obligations.WrittenOutWordsDecode : Prop :=
  decode 0x00000000#32 = .ok .nop ∧ decode 0x00000001#32 = .ok .decode ∧ decode 0x00000002#32 = .ok .encode ∧
  decode 0xFFCE0012#32 = .ok (.bright (-50)) ∧ decode 0x00800013#32 = .ok (.thresh 128) ∧
  decode 0x00000025#32 = .ok .sharpen ∧ decode 0x00000031#32 = .ok .histo ∧
  decode 0x00010010#32 = .error .immediateOnFormatN ∧ decode 0x00000112#32 = .error .reservedBits ∧
  decode 0x00000005#32 = .error .unknownOpcode

/-- R91: the operand of a format-I word is its sign-extended immediate field, whatever the field. -/
def Obligations.ImmediateIsSignExtended : Prop :=
  ∀ imm : BitVec 16,
    decode (imm ++ 0x0012#16) = .ok (.bright (if imm.toNat < 32768 then (imm.toNat : Int) else imm.toNat - 65536)) ∧
    decode (imm ++ 0x0013#16) = .ok (.thresh (if imm.toNat < 32768 then (imm.toNat : Int) else imm.toNat - 65536))

/-! # The engine's turn, completion and failure -/

/-- R81, R93: with a command in flight whose word decodes to `i`, the engine's turn performs `i`: with an empty agenda
on the state itself, and with the engine's turn first on the agenda on the state less that entry. The agenda is the
model's choice (log entry 1). -/
def Obligations.StepPerformsTheDecodedCommand : Prop :=
  ∀ (s : State) (i : Instr), s.status.busy = true → decode s.ir = .ok i →
    (s.agenda = [] → step s = exec i s) ∧
    ∀ rest, s.agenda = .engine :: rest → step s = exec i { s with agenda := rest }

/-- The interface's `withFetchWord` (log entry 13): the next step decodes the word and performs it. -/
def Obligations.PlacedWordRunsNext : Prop :=
  ∀ (s : State) (w : Word) (i : Instr), decode w = .ok i →
    step (s.withFetchWord 32 w.toNat) = exec i { s with ir := w, status := { s.status with busy := true } }

/-- R81, R219: an engine with no command in flight does nothing at its turn (the agenda: log entry 1). -/
def Obligations.IdleEngineDoesNothing : Prop :=
  ∀ s : State, s.status.busy = false →
    (s.agenda = [] → step s = .next s) ∧ ∀ rest, s.agenda = .engine :: rest → step s = .next { s with agenda := rest }

/-- R205: every accepted command, whatever its word, completes at the engine's turn: BUSY falls, DONE rises, ERRF rises
exactly when the code is not 0 and otherwise keeps its value, and HZD, IRQEN and IR are not touched. The turn comes with
an empty agenda or as the agenda's first entry, which is the model's choice (log entry 1). -/
def Obligations.EveryAcceptedCommandCompletes : Prop :=
  ∀ s : State, s.status.busy = true → (s.agenda = [] ∨ ∃ rest, s.agenda = .engine :: rest) →
    ∃ t, step s = .next t ∧ t.agenda = s.agenda.tail ∧ t.status.busy = false ∧ t.status.done = true ∧
      t.status.errf = (s.status.errf || decide (t.result ≠ .ok)) ∧ t.status.hzd = s.status.hzd ∧
      t.irqen = s.irqen ∧ t.ir = s.ir

/-- R206: a command that fails changes nothing but RESULT and the completion flags. -/
def Obligations.FailureChangesNothingElse : Prop :=
  ∀ (i : Instr) (s t : State), exec i s = .next t → t.result ≠ .ok →
    t = { s with result := t.result, status := errStatus s.status }

/-- R203: which command can complete with which code. -/
def Obligations.ResultCodesOfEachCommand : Prop :=
  ∀ (i : Instr) (s t : State), exec i s = .next t →
    match i with
    | .nop | .release => t.result = .ok
    | .decode => t.result ∈ [.ok, .ioError, .invalidSignature, .unsupportedFormat, .capacityExceeded]
    | .encode => t.result ∈ [.ok, .ioError, .emptyBuffer]
    | .setshape => t.result ∈ [.ok, .unsupportedFormat, .shapeMismatch, .capacityExceeded]
    | .grayscale | .thresh _ => t.result ∈ [.ok, .shapeMismatch, .emptyBuffer]
    | .convolve => t.result ∈ [.ok, .invalidKernel, .emptyBuffer]
    | .negative | .bright _ | .boxblur | .gauss | .outline | .emboss | .sharpen | .equalize | .histo =>
      t.result ∈ [.ok, .emptyBuffer]

/-- R20, R29 to R31, R40: no command writes the registers and the memory that the host alone writes, whatever it does
else; nor IR, IRQEN, HZD, or the model's agenda and bus. -/
def Obligations.NoCommandWritesTheHostsOperands : Prop :=
  ∀ (i : Instr) (s t : State), exec i s = .next t →
    t.argw = s.argw ∧ t.argh = s.argh ∧ t.argch = s.argch ∧ t.krows = s.krows ∧ t.kcols = s.kcols ∧
    t.kdiv = s.kdiv ∧ t.kcoef = s.kcoef ∧ t.irqen = s.irqen ∧ t.ir = s.ir ∧ t.status.hzd = s.status.hzd ∧
    t.agenda = s.agenda ∧ t.busOut = s.busOut ∧ t.powerEpoch = s.powerEpoch ∧ t.freeCount = s.freeCount

/-- R62: which command can change which memory, FLEN, PIXOFF and DATASIZE, and the shape. -/
def Obligations.EachMemoryHasItsWriters : Prop :=
  ∀ (i : Instr) (s t : State), exec i s = .next t →
    (i ≠ .encode → t.fb = s.fb ∧ t.flen = s.flen) ∧
    (i ≠ .equalize → i ≠ .histo → t.hist = s.hist ∧ t.cdf = s.cdf) ∧
    (i ≠ .equalize → t.lut = s.lut) ∧
    (i ≠ .decode → t.hdr8 = s.hdr8 ∧ t.pixoff = s.pixoff ∧ t.datasize = s.datasize) ∧
    (i = .nop ∨ i = .encode ∨ i = .release ∨ i = .histo → t.rb = s.rb) ∧
    (i ≠ .decode → i ≠ .setshape → i ≠ .release →
      t.width = s.width ∧ t.height = s.height ∧ t.channels = s.channels ∧
      t.status.bufvalid = s.status.bufvalid ∧ t.status.hdrvalid = s.status.hdrvalid)

/-- R26: over every step of the machine, WIDTH, HEIGHT, CHANNELS and BUFVALID change only by a reset or by the
completion of a DECODE, SETSHAPE or RELEASE that succeeds (a reset is the agenda's, log entry 1). -/
def Obligations.ShapeChangesOnlyBySuccess : Prop :=
  ∀ s t : State, step s = .next t →
    (t.width, t.height, t.channels, t.status.bufvalid) ≠ (s.width, s.height, s.channels, s.status.bufvalid) →
    s.agenda.head? = some .rst ∨
      (s.status.busy = true ∧ t.status.busy = false ∧ t.status.done = true ∧ t.result = .ok ∧
        (decode s.ir = .ok .decode ∨ decode s.ir = .ok .setshape ∨ decode s.ir = .ok .release))

/-- R24: over every step of the machine, RESULT is overwritten by a completion or a reset and by nothing else (a reset
is the agenda's, log entry 1). -/
def Obligations.ResultChangesOnlyAtCompletion : Prop :=
  ∀ s t : State, step s = .next t → t.result ≠ s.result →
    s.agenda.head? = some .rst ∨ (s.status.busy = true ∧ t.status.busy = false ∧ t.status.done = true)

/-! # System commands (44_system.md) -/

/-- R190: NOP's whole effect is the completion update; after reset it leaves STATUS 2, and a read of CMD after reset
returns the NOP word. -/
def Obligations.NopOnlyCompletes : Prop :=
  (∀ s : State, exec .nop s = .next { s with result := .ok, status := okStatus s.status }) ∧
  (∃ t, exec .nop State.reset = .next t ∧ t.status.toWord = 0x00000002#32) ∧
  State.reset.readReg .cmd = encode .nop ∧ encode .nop = 0x00000000#32

/-- R192: SETSHAPE's word, its tests in their order, and the zero-filled buffer it makes. That samples beyond the
image keep what they held is the model's choice (log entry 8). -/
def Obligations.SetshapeMakesAZeroBuffer : Prop :=
  encode .setshape = 0x00000003#32 ∧ ∀ s : State,
    let w := s.argw.toNat
    let h := s.argh.toNat
    let ch := s.argch.toNat
    (ch ≠ 1 ∧ ch ≠ 3 → FailsWith .setshape s .shapeMismatch) ∧
    ((ch = 1 ∨ ch = 3) → (w = 0 ∨ h = 0) → FailsWith .setshape s .unsupportedFormat) ∧
    ((ch = 1 ∨ ch = 3) → 0 < w → 0 < h → 16777216 < w * h * ch → FailsWith .setshape s .capacityExceeded) ∧
    ((ch = 1 ∨ ch = 3) → 0 < w → 0 < h → w * h * ch ≤ 16777216 →
      ∃ t, exec .setshape s = .next t ∧
        t = { s with
              width := s.argw
              height := s.argh
              channels := s.argch
              status := { okStatus s.status with bufvalid := true, hdrvalid := false }
              result := .ok
              rb := t.rb } ∧
        ∀ k, t.sample k = if k < w * h * ch then 0#8 else s.sample k)

/-- R193: RELEASE drops the buffer and its header and clears the shape; with no buffer loaded only the completion flags
and RESULT change. Then there is no sample, and EQUALIZE fails with EmptyBuffer. -/
def Obligations.ReleaseDropsTheBuffer : Prop :=
  encode .release = 0x00000004#32 ∧
  (∀ s : State, exec .release s = .next
    { s with
      width := 0#32
      height := 0#32
      channels := 0#32
      status := { okStatus s.status with bufvalid := false, hdrvalid := false }
      result := .ok }) ∧
  (∀ s : State, s.ShapeOk → s.status.bufvalid = false →
    exec .release s = .next { s with result := .ok, status := okStatus s.status }) ∧
  ∀ s t : State, exec .release s = .next t → t.nSamples = 0 ∧ FailsWith .equalize t .emptyBuffer

/-! # The codec (40_codec.md) -/

/-- R111: the strides are multiples of 4 that hold the row with less than 4 bytes of padding, and the values the rule
lists. -/
def Obligations.StridesAreAlignedRows : Prop :=
  (∀ w, stride8 w % 4 = 0 ∧ w ≤ stride8 w ∧ stride8 w < w + 4) ∧
  (∀ w, stride24 w % 4 = 0 ∧ 3 * w ≤ stride24 w ∧ stride24 w < 3 * w + 4 ∧ stride24 w = 3 * w + pad24 w) ∧
  (∀ w, pad24 w = if w % 4 = 0 then 0 else w % 4) ∧
  [1, 2, 3, 4, 5, 6, 7, 8].map stride8 = [4, 4, 4, 4, 8, 8, 8, 8] ∧
  [1, 2, 3, 4, 5, 6, 7, 8].map stride24 = [4, 8, 12, 12, 16, 20, 24, 24]

/-- R72: FileRead of a field: a byte needed at index FLEN or above is an IoError, and otherwise the value is the
little-endian number; the one-, two- and four-byte forms written out. -/
def Obligations.FileReadIsBoundedLittleEndian : Prop :=
  ∀ (s : State) (off : Nat),
    (∀ n, s.fileLen < off + n → s.fileRead off n = .error .ioError) ∧
    (off + 1 ≤ s.fileLen → s.fileRead off 1 = .ok (s.fileByte off).toNat) ∧
    (off + 2 ≤ s.fileLen → s.fileRead off 2 = .ok ((s.fileByte off).toNat + 256 * (s.fileByte (off + 1)).toNat)) ∧
    (off + 4 ≤ s.fileLen → s.fileRead off 4 = .ok ((s.fileByte off).toNat + 256 * (s.fileByte (off + 1)).toNat
      + 65536 * (s.fileByte (off + 2)).toNat + 16777216 * (s.fileByte (off + 3)).toNat))

/-- R113, R114, R115 in the order of R112 and R215: the signature, the 54-byte header, the format, the dimensions and
the capacity, each with the code it fails with and nothing else changed. -/
def Obligations.DecodeRejectsInOrder : Prop :=
  ∀ s : State,
    let bm := s.fileByte 0 = 0x42#8 ∧ s.fileByte 1 = 0x4D#8
    let format := (s.fileField 28 2 = 8 ∨ s.fileField 28 2 = 24) ∧ s.fileField 30 4 = 0
    let ch := if s.fileField 28 2 = 8 then 1 else 3
    (s.fileLen < 2 → FailsWith .decode s .ioError) ∧
    (2 ≤ s.fileLen → ¬ bm → FailsWith .decode s .invalidSignature) ∧
    (2 ≤ s.fileLen → bm → s.fileLen < 54 → FailsWith .decode s .ioError) ∧
    (54 ≤ s.fileLen → bm → ¬ format → FailsWith .decode s .unsupportedFormat) ∧
    (54 ≤ s.fileLen → bm → format → (widthField s ≤ 0 ∨ heightField s ≤ 0) →
      FailsWith .decode s .unsupportedFormat) ∧
    (54 ≤ s.fileLen → bm → format → 0 < widthField s → 0 < heightField s →
      16777216 < widthField s * heightField s * ch → FailsWith .decode s .capacityExceeded)

/-- R120, R121: a 24-bit file: IoError when its rows are not all there, and otherwise the image of its rows, bottom
row first, each triple blue, green, red; the frame is the whole state but what R121 commits. Samples beyond the image:
the model's choice (log entry 8). -/
def Obligations.DecodeReadsA24BitFile : Prop :=
  ∀ (s : State) (w h : Nat), SizeAccepted s 24 w h 3 →
    (s.fileLen < 54 + row24 w * h → FailsWith .decode s .ioError) ∧
    (54 + row24 w * h ≤ s.fileLen →
      ∃ t, exec .decode s = .next t ∧
        t = { s with
              width := BitVec.ofNat 32 w
              height := BitVec.ofNat 32 h
              channels := 3#32
              status := { okStatus s.status with bufvalid := true, hdrvalid := false }
              result := .ok
              pixoff := BitVec.ofNat 32 (s.fileField 10 4)
              datasize := BitVec.ofNat 32 (row24 w * h)
              rb := t.rb } ∧
        (∀ x < w, ∀ y < h,
          t.sample ((y * w + x) * 3) = s.fileByte (54 + (h - 1 - y) * row24 w + 3 * x + 2) ∧
          t.sample ((y * w + x) * 3 + 1) = s.fileByte (54 + (h - 1 - y) * row24 w + 3 * x + 1) ∧
          t.sample ((y * w + x) * 3 + 2) = s.fileByte (54 + (h - 1 - y) * row24 w + 3 * x)) ∧
        ∀ k, w * h * 3 ≤ k → t.sample k = s.sample k)

/-- R117, R118, R119: an 8-bit file: the three IoErrors of R117, and otherwise the image of its rows, bottom row
first, the captured 1078 bytes, and DATASIZE. Samples beyond the image: the model's choice (log entry 8). -/
def Obligations.DecodeReadsAn8BitFile : Prop :=
  ∀ (s : State) (w h : Nat), SizeAccepted s 8 w h 1 →
    let need := row8 w * h
    let ds := if s.fileField 34 4 = 0 then need else s.fileField 34 4
    (s.fileLen < 1078 → FailsWith .decode s .ioError) ∧
    (ds < need → FailsWith .decode s .ioError) ∧
    (s.fileLen < 1078 + ds → FailsWith .decode s .ioError) ∧
    (need ≤ ds → 1078 + ds ≤ s.fileLen →
      ∃ t, exec .decode s = .next t ∧
        t = { s with
              width := BitVec.ofNat 32 w
              height := BitVec.ofNat 32 h
              channels := 1#32
              status := { okStatus s.status with bufvalid := true, hdrvalid := true }
              result := .ok
              pixoff := BitVec.ofNat 32 (s.fileField 10 4)
              datasize := BitVec.ofNat 32 ds
              hdr8 := t.hdr8
              rb := t.rb } ∧
        (∀ k < 1078, t.headerByte k = s.fileByte k) ∧
        (∀ x < w, ∀ y < h, t.sample (y * w + x) = s.fileByte (1078 + (h - 1 - y) * row8 w + x)) ∧
        ∀ k, w * h ≤ k → t.sample k = s.sample k)

/-- R114, R116, R120: of a file whose depth field is not 8, only the signature, the dimensions, the depth, the
compression and the pixel bytes decide the result, the shape and the samples: files that agree on these decode alike,
whatever their other header bytes, the pixel-data-offset field among them. That the samples beyond the image agree too
rests on the model's choice (log entry 8). -/
def Obligations.DecodeIgnoresOtherHeaderBytes : Prop :=
  ∀ (s s' : State), s' = { s with fb := s'.fb } → s.fileField 28 2 ≠ 8 →
    (∀ k, k < 2 ∨ (18 ≤ k ∧ k < 26) ∨ (28 ≤ k ∧ k < 34) ∨ 54 ≤ k → s'.fileByte k = s.fileByte k) →
    ∃ t t', exec .decode s = .next t ∧ exec .decode s' = .next t' ∧
      t' = { t with fb := s'.fb, pixoff := t'.pixoff }

/-- R123, R124, R125, R127, R129: ENCODE of a 3-channel buffer: EmptyBuffer without one, IoError when the file would not
fit, and otherwise the regenerated header, the rows bottom row first in blue, green, red triples, and zero padding; no
other byte of the file buffer and nothing else changes. -/
def Obligations.EncodeWritesA24BitFile : Prop :=
  ∀ s : State,
    (s.status.bufvalid = false → FailsWith .encode s .emptyBuffer) ∧
    (s.status.bufvalid = true → s.ch = 3 →
      let st := row24 s.w
      let len := 54 + st * s.h
      (16777216 < len → FailsWith .encode s .ioError) ∧
      (len ≤ 16777216 →
        ∃ t, exec .encode s = .next t ∧ ChangesOnlyFile s t len ∧
          HeaderFields t len 54 s.w s.h 24 (st * s.h) ∧
          ∀ r < s.h,
            (∀ x < s.w, ∀ c < 3, t.fileByte (54 + r * st + 3 * x + c) = s.pixelSample x (s.h - 1 - r) (2 - c)) ∧
            ∀ j, 3 * s.w ≤ j → j < st → t.fileByte (54 + r * st + j) = 0#8))

/-- R124, R126, R127, R128: ENCODE of a 1-channel buffer: the captured 1078 bytes, or without them a header of depth 8
and the identity colour table; the rows bottom row first, and zero padding. -/
def Obligations.EncodeWritesAn8BitFile : Prop :=
  ∀ s : State, s.status.bufvalid = true → s.ch = 1 →
    let st := row8 s.w
    let len := 1078 + st * s.h
    (16777216 < len → FailsWith .encode s .ioError) ∧
    (len ≤ 16777216 →
      ∃ t, exec .encode s = .next t ∧ ChangesOnlyFile s t len ∧
        (s.status.hdrvalid = true → ∀ k < 1078, t.fileByte k = s.headerByte k) ∧
        (s.status.hdrvalid = false →
          HeaderFields t len 1078 s.w s.h 8 (st * s.h) ∧
          ∀ i < 256, t.fileByte (54 + 4 * i) = BitVec.ofNat 8 i ∧ t.fileByte (54 + 4 * i + 1) = BitVec.ofNat 8 i ∧
            t.fileByte (54 + 4 * i + 2) = BitVec.ofNat 8 i ∧ t.fileByte (54 + 4 * i + 3) = 0#8) ∧
        ∀ r < s.h,
          (∀ x < s.w, t.fileByte (1078 + r * st + x) = s.pixelSample x (s.h - 1 - r) 0) ∧
          ∀ j, s.w ≤ j → j < st → t.fileByte (1078 + r * st + j) = 0#8)

/-- R130: ENCODE and then DECODE gives back the shape and every sample: of any 3-channel buffer; of a 1-channel buffer
without a captured header; and of one with a captured header whose data-size field is 0 or the rows' size. With a larger
field the DECODE fails with IoError. -/
def Obligations.DecodeOfEncodedFileGivesTheImageBack : Prop :=
  ∀ s t : State, s.ShapeOk → s.HeaderOk → s.status.bufvalid = true → exec .encode s = .next t → t.result = .ok →
    let back := ∃ u, exec .decode t = .next u ∧ u.result = .ok ∧ u.width = s.width ∧ u.height = s.height ∧
      u.channels = s.channels ∧ u.status.bufvalid = true ∧ u.status.hdrvalid = decide (s.ch = 1) ∧
      u.samples = s.samples
    (s.ch = 3 → back ∧ ∃ u, exec .decode t = .next u ∧ u.pixoff = 54#32 ∧ u.datasize = BitVec.ofNat 32 (row24 s.w * s.h)) ∧
    (s.ch = 1 → s.status.hdrvalid = false → back) ∧
    (s.ch = 1 → s.status.hdrvalid = true → (s.headerField 34 4 = 0 ∨ s.headerField 34 4 = row8 s.w * s.h) → back) ∧
    (s.ch = 1 → s.status.hdrvalid = true → row8 s.w * s.h < s.headerField 34 4 → FailsWith .decode t .ioError)

/-! # Point operations (41_point_ops.md) -/

/-- R141: NEGATIVE replaces every sample by 255 minus it, fails only without a buffer, and is its own inverse. That
samples beyond the image keep what they held is the model's choice (log entry 8). -/
def Obligations.NegativeComplementsEverySample : Prop :=
  encode .negative = 0x00000010#32 ∧
  (∀ s : State, s.status.bufvalid = false → FailsWith .negative s .emptyBuffer) ∧
  (∀ s : State, s.status.bufvalid = true → RewritesSamples .negative s fun k => 255#8 - s.sample k) ∧
  ∀ s t u : State, s.status.bufvalid = true → exec .negative s = .next t → exec .negative t = .next u →
    u.samples = s.samples

/-- R142: GRAYSCALE replaces each pixel's three samples by their truncated mean, on 3 channels only; it is idempotent.
That samples beyond the image keep what they held is the model's choice (log entry 8). -/
def Obligations.GrayscaleAveragesEachPixel : Prop :=
  encode .grayscale = 0x00000011#32 ∧
  (∀ s : State, s.status.bufvalid = false → FailsWith .grayscale s .emptyBuffer) ∧
  (∀ s : State, s.status.bufvalid = true → s.ch ≠ 3 → FailsWith .grayscale s .shapeMismatch) ∧
  (∀ s : State, s.status.bufvalid = true → s.ch = 3 →
    ∃ t, exec .grayscale s = .next t ∧ ChangesOnlyRaster s t ∧
      (∀ p < s.total, ∀ c < 3, (t.sample (3 * p + c)).toNat =
        ((s.sample (3 * p)).toNat + (s.sample (3 * p + 1)).toNat + (s.sample (3 * p + 2)).toNat) / 3) ∧
      ∀ k, s.nSamples ≤ k → t.sample k = s.sample k) ∧
  ∀ s t u : State, s.status.bufvalid = true → s.ch = 3 → exec .grayscale s = .next t → exec .grayscale t = .next u →
    u.samples = t.samples

/-- R143: BRIGHT adds its operand to every sample and saturates: from 255 up every sample is 255, from -255 down every
sample is 0, and 0 leaves the image as it is. That samples beyond the image keep what they held is the model's choice
(log entry 8). -/
def Obligations.BrightAddsAndSaturates : Prop :=
  (∀ imm : BitVec 16, decode (imm ++ 0x0012#16) = .ok (.bright imm.toInt)) ∧
  (∀ (s : State) (delta : Int), s.status.bufvalid = false → FailsWith (.bright delta) s .emptyBuffer) ∧
  (∀ (s : State) (delta : Int), s.status.bufvalid = true →
    RewritesSamples (.bright delta) s fun k =>
      BitVec.ofNat 8 (min 255 (max 0 ((s.sample k).toNat + delta)).toNat)) ∧
  ∀ (s t : State) (delta : Int), s.status.bufvalid = true → exec (.bright delta) s = .next t →
    (255 ≤ delta → ∀ k < s.nSamples, t.sample k = 255#8) ∧ (delta ≤ -255 → ∀ k < s.nSamples, t.sample k = 0#8) ∧
    (delta = 0 → ∀ k, t.sample k = s.sample k)

/-- R144: THRESH makes a sample 255 when it is at least the operand and else 0, on 1 channel only; from 0 down every
sample is 255 and from 256 up every sample is 0. That samples beyond the image keep what they held is the model's
choice (log entry 8). -/
def Obligations.ThreshCompares : Prop :=
  (∀ imm : BitVec 16, decode (imm ++ 0x0013#16) = .ok (.thresh imm.toInt)) ∧
  (∀ (s : State) (v : Int), s.status.bufvalid = false → FailsWith (.thresh v) s .emptyBuffer) ∧
  (∀ (s : State) (v : Int), s.status.bufvalid = true → s.ch ≠ 1 → FailsWith (.thresh v) s .shapeMismatch) ∧
  (∀ (s : State) (v : Int), s.status.bufvalid = true → s.ch = 1 →
    RewritesSamples (.thresh v) s fun k => if v ≤ ((s.sample k).toNat : Int) then 255#8 else 0#8) ∧
  ∀ (s t : State) (v : Int), s.status.bufvalid = true → s.ch = 1 → exec (.thresh v) s = .next t →
    (v ≤ 0 → ∀ k < s.nSamples, t.sample k = 255#8) ∧ (256 ≤ v → ∀ k < s.nSamples, t.sample k = 0#8)

/-! # Convolution (42_convolution.md) -/

/-- R7: `round` gives an integer nearest to the quotient, and of two nearest ones the one farther from zero; with the
examples of the rule. -/
def Obligations.RoundIsNearestTiesAwayFromZero : Prop :=
  (∀ (num : Int) (den : Nat), 0 < den →
    2 * |num - den * round num den| ≤ den ∧
    (2 * |num - den * round num den| = den → |num| ≤ den * |round num den|)) ∧
  round 5 2 = 3 ∧ round (-5) 2 = -3 ∧ round 255 2 = 128 ∧ round (-1) 2 = -1 ∧ round 4999 10000 = 0

/-- 92_eei_decisions.md D14: after the clamp, sending ties away from zero and sending them up give the same sample, for
every quotient (the tie rule as a parameter: log entry 10). -/
def Obligations.TiesAwayAndUpAgreeOnSamples : Prop :=
  ∀ (num : Int) (den : Nat), 0 < den →
    clampByte (roundWith .away num den) = clampByte (roundWith .up num den)

/-- R151, R152, R153: CONVOLVE: EmptyBuffer, then InvalidKernel for a kernel that is not square, not odd, larger than
7 or has divisor 0, and otherwise every sample becomes the rounded, clamped window sum over the old raster. That
samples beyond the image keep what they held is the model's choice (log entry 8). -/
def Obligations.ConvolveTakesTheWindowSum : Prop :=
  encode .convolve = 0x00000020#32 ∧
  (∀ s : State, s.status.bufvalid = false → FailsWith .convolve s .emptyBuffer) ∧
  (∀ s : State, s.status.bufvalid = true →
    (s.krows ≠ s.kcols ∨ s.krows.toNat % 2 = 0 ∨ 7 < s.krows.toNat ∨ s.kdiv.toNat = 0) →
    FailsWith .convolve s .invalidKernel) ∧
  ∀ s : State, s.status.bufvalid = true → s.krows = s.kcols → s.krows.toNat % 2 = 1 → s.krows.toNat ≤ 7 →
    0 < s.kdiv.toNat → Convolves .convolve s s.krows.toNat (fun e => (s.kernelBits e).toInt) s.kdiv.toNat

/-- R155 to R160: each preset takes the window sum of its own fixed 3x3 kernel, and fails only without a buffer. That
samples beyond the image keep what they held is the model's choice (log entry 8). -/
def Obligations.PresetsTakeTheirFixedKernels : Prop :=
  ∀ p ∈ presets, ∀ s : State,
    (s.status.bufvalid = false → FailsWith p.1 s .emptyBuffer) ∧
    (s.status.bufvalid = true → Convolves p.1 s 3 (fun e => p.2.1.getD e 0) p.2.2)

/-- R155, R97: a preset does what CONVOLVE does on the state with the preset's kernel loaded, and leaves the kernel
registers and KCOEF as they were, whatever they hold. That the samples beyond the image agree too rests on the model's
choice (log entry 8). -/
def Obligations.PresetIsConvolveWithItsKernel : Prop :=
  ∀ p ∈ presets, ∀ s s' : State,
    s' = { s with krows := 3#32, kcols := 3#32, kdiv := BitVec.ofNat 16 p.2.2, kcoef := s'.kcoef } →
    (∀ e < 9, (s'.kernelBits e).toInt = p.2.1.getD e 0) →
    ∃ t t', exec p.1 s = .next t ∧ exec .convolve s' = .next t' ∧
      t = { t' with krows := s.krows, kcols := s.kcols, kdiv := s.kdiv, kcoef := s.kcoef }

/-- R154: each channel is filtered on its own: two images that agree on channel `c` have outputs that agree on channel
`c`, for CONVOLVE and every preset. -/
def Obligations.ConvolutionKeepsChannelsApart : Prop :=
  ∀ i ∈ [Instr.convolve, .boxblur, .gauss, .outline, .emboss, .sharpen], ∀ (s s' t t' : State) (c : Nat),
    s' = { s with rb := s'.rb } → c < s.ch →
    (∀ x < s.w, ∀ y < s.h, s'.pixelSample x y c = s.pixelSample x y c) →
    exec i s = .next t → exec i s' = .next t' →
    ∀ x < s.w, ∀ y < s.h, t'.pixelSample x y c = t.pixelSample x y c

/-! # Equalization (43_equalization.md) -/

/-- R177: the three numerators and their ranges, and that the bin is the rounded and clamped luma, has the integer form,
and never needs its clamp; with the tie of the rule. -/
def Obligations.LumaNeverNeedsItsClamp : Prop :=
  ∀ r g b : Nat, r ≤ 255 → g ≤ 255 → b ≤ 255 →
    0 ≤ lumaN r g b ∧ lumaN r g b ≤ 255000 ∧
    -11117745 ≤ chromaUN r g b ∧ chromaUN r g b ≤ 11118000 ∧
    -15682500 ≤ chromaVN r g b ∧ chromaVN r g b ≤ 15682500 ∧
    (lumaBin r g b : Int) = clamp (round (lumaN r g b) 1000) 0 255 ∧
    (lumaBin r g b : Int) = (2 * lumaN r g b + 1000) / 2000 ∧ round (lumaN r g b) 1000 ≤ 255 ∧
    lumaN r g b = 299 * (r : Int) + 587 * g + 114 * b ∧
    chromaUN r g b = -14713 * (r : Int) - 28886 * g + 43600 * b ∧
    chromaVN r g b = 61500 * (r : Int) - 51499 * g - 10001 * b ∧ lumaBin 0 0 250 = 29

/-- R171, R172, R183: HISTO writes the histogram and its running sum, whose last entry is the pixel count, and nothing
else; it fails only without a buffer. -/
def Obligations.HistoCountsLevels : Prop :=
  encode .histo = 0x00000031#32 ∧
  (∀ s : State, s.status.bufvalid = false → FailsWith .histo s .emptyBuffer) ∧
  ∀ s : State, s.ShapeOk → s.status.bufvalid = true →
    ∃ t, exec .histo s = .next t ∧
      t = { s with hist := t.hist, cdf := t.cdf, result := .ok, status := okStatus s.status } ∧
      HoldsTables s t ∧ (t.cdfEntry 255).toNat = s.total ∧
      ∑ v ∈ Finset.range 256, (t.histEntry v).toNat = s.total

/-- R170 to R175: EQUALIZE of a 1-channel buffer: the tables of HISTO; with `m` the lowest level present and its CDF
entry as minimum, the LUT is the rounded quotient from `m` on and 0 below, and all 0 when every sample has one value;
every sample goes through the LUT. That samples beyond the image keep what they held is the model's choice (log entry
8). -/
def Obligations.EqualizeRemapsOneChannel : Prop :=
  (∀ s : State, s.status.bufvalid = false → FailsWith .equalize s .emptyBuffer) ∧
  ∀ s : State, s.ShapeOk → s.status.bufvalid = true → s.ch = 1 →
    ∃ t, exec .equalize s = .next t ∧
      t = { s with hist := t.hist, cdf := t.cdf, lut := t.lut, rb := t.rb, result := .ok,
                   status := okStatus s.status } ∧
      HoldsTables s t ∧
      (∃ m < 256, (∀ i < m, levelCount s i = 0) ∧ 0 < levelCount s m ∧
        ∀ i < 256, (t.lutEntry i).toNat =
          if s.total = levelCount s m ∨ i < m then 0
          else (510 * ((t.cdfEntry i).toNat - levelCount s m) + (s.total - levelCount s m))
            / (2 * (s.total - levelCount s m))) ∧
      ∀ k, t.sample k = if k < s.nSamples then t.lutEntry (s.sample k).toNat else s.sample k

/-- R170 to R172, R176 to R180: EQUALIZE of a 3-channel buffer: the tables of HISTO; the LUT with CDF[0] as minimum;
each pixel's luma through the LUT and back to red, green and blue with its own exact U and V, rounded and clamped.
That samples beyond the image keep what they held is the model's choice (log entry 8). -/
def Obligations.EqualizeRemapsLuma : Prop :=
  ∀ s : State, s.ShapeOk → s.status.bufvalid = true → s.ch = 3 →
    ∃ t, exec .equalize s = .next t ∧
      t = { s with hist := t.hist, cdf := t.cdf, lut := t.lut, rb := t.rb, result := .ok,
                   status := okStatus s.status } ∧
      HoldsTables s t ∧
      (∀ i < 256, (t.lutEntry i).toNat =
        if s.total = levelCount s 0 then 0
        else (510 * ((t.cdfEntry i).toNat - levelCount s 0) + (s.total - levelCount s 0))
          / (2 * (s.total - levelCount s 0))) ∧
      (∀ p < s.total,
        let r : Int := (s.sample (3 * p)).toNat
        let g : Int := (s.sample (3 * p + 1)).toNat
        let b : Int := (s.sample (3 * p + 2)).toNat
        let y : Int := (t.lutEntry (binnedLuma s p)).toNat
        let un : Int := -14713 * r - 28886 * g + 43600 * b
        let vn : Int := 61500 * r - 51499 * g - 10001 * b
        t.sample (3 * p) = roundClamp (y * 10000000000 + 113983 * vn) 10000000000 ∧
        t.sample (3 * p + 1) = roundClamp (y * 10000000000 - 39465 * un - 58060 * vn) 10000000000 ∧
        t.sample (3 * p + 2) = roundClamp (y * 10000000000 + 203211 * un) 10000000000) ∧
      ∀ k, s.nSamples ≤ k → t.sample k = s.sample k

/-- R174, R178, R181: after a successful EQUALIZE the LUT never falls from one level to the next, and its last entry
is 255 unless the guard line made it all 0. -/
def Obligations.EqualizeTableIsMonotone : Prop :=
  ∀ s t : State, s.ShapeOk → exec .equalize s = .next t → t.result = .ok →
    (∀ i j, i ≤ j → j < 256 → (t.lutEntry i).toNat ≤ (t.lutEntry j).toNat) ∧
    ((t.lutEntry 255).toNat = 255 ∨ ∀ i < 256, t.lutEntry i = 0#8)

/-! # The host's side (10_state.md, 20_memory.md, 70_reset_and_hazards.md) -/

/-- R22: a write of CMD while no command is in flight accepts the word and changes nothing else; while one is in
flight it is dropped and sets HZD. -/
def Obligations.CommandWriteAcceptsWhenIdle : Prop :=
  ∀ (s : State) (w : Word),
    (s.status.busy = false →
      onBus s (.write 0x00#32 .word w) =
        .next { s with ir := w, status := { s.status with busy := true }, busOut := some .written }) ∧
    (s.status.busy = true →
      onBus s (.write 0x00#32 .word w) =
        .next { s with status := { s.status with hzd := true }, busOut := some .written })

/-- R23, R207: the bits of STATUS, and at any time what a read of it answers and what a write clears. -/
def Obligations.StatusReadsAndClears : Prop :=
  (∀ t : Status,
    (t.toWord.getLsbD 0 = t.busy ∧ t.toWord.getLsbD 1 = t.done ∧ t.toWord.getLsbD 2 = t.errf ∧
      t.toWord.getLsbD 3 = t.hzd ∧ t.toWord.getLsbD 4 = t.bufvalid ∧ t.toWord.getLsbD 5 = t.hdrvalid) ∧
    ∀ i, 6 ≤ i → t.toWord.getLsbD i = false) ∧
  ∀ (s : State) (w : Word),
    onBus s (.read 0x04#32 .word) =
      .next { s with busOut := some (.data s.status.toWord), freeCount := s.freeCount + 1 } ∧
    onBus s (.write 0x04#32 .word w) =
      .next { s with
              status := { s.status with
                          done := s.status.done && !w.getLsbD 1
                          errf := s.status.errf && !w.getLsbD 2
                          hzd := s.status.hzd && !w.getLsbD 3 }
              busOut := some .written }

/-- R22 to R33, R70: what a read of each of the twenty registers answers while no command is in flight, and of the six
open ones (R236) at any time, with the number of each result code (R201) and the bits of IRQEN (R25); a read changes
nothing but the model's own bus and counter fields (log entries 2 and 5). -/
def Obligations.RegisterReadsAnswer : Prop :=
  ([ResultCode.ok, .ioError, .invalidSignature, .unsupportedFormat, .invalidKernel, .shapeMismatch, .emptyBuffer,
    .illegalCommand, .capacityExceeded].map (·.code) = [0#8, 1#8, 2#8, 3#8, 4#8, 5#8, 6#8, 7#8, 8#8]) ∧
  (∀ e : IrqEnable,
    (e.toWord.getLsbD 1 = e.doneIe ∧ e.toWord.getLsbD 2 = e.errIe ∧ e.toWord.getLsbD 3 = e.hzdIe) ∧
    ∀ i, i = 0 ∨ 4 ≤ i → e.toWord.getLsbD i = false) ∧
  ∀ s : State, ∀ p ∈ registerReads s, s.status.busy = false ∨ p.1 ∈ openReads →
    onBus s (.read p.1 .word) = .next { s with busOut := some (.data p.2), freeCount := s.freeCount + 1 }

/-- R24 to R33, R70: what a write at each register but CMD and STATUS does while no command is in flight, IRQEN at any
time: IRQEN keeps bits 3:1, FLEN is clamped, KDIV keeps its low half, the operand registers store the word, the
read-only ones ignore it. -/
def Obligations.RegisterWritesStore : Prop :=
  ∀ (s : State) (v : Word), ∀ p ∈ registerWrites s v, s.status.busy = false ∨ p.1 ∈ openWrites →
    onBus s (.write p.1 .word v) = .next { p.2 with busOut := some .written }

/-- R236: while a command is in flight, every mapped access but those of the open registers is a violation: HZD rises,
a write is dropped, a read answers some value, and nothing else changes. That a write to ID, FILECAP, RASTERCAP or
KMAXR is one is read from the rule (log entry 12). -/
def Obligations.BusyRuleDropsAccesses : Prop :=
  ∀ (s : State) (addr : Word) (n : AccessSize), s.status.busy = true → Mapped addr n →
    (addr ∉ openReads → ∃ v, onBus s (.read addr n) =
      .next { s with status := { s.status with hzd := true }, busOut := some (.data v), freeCount := s.freeCount + 1 }) ∧
    (addr ∉ openWrites → ∀ v, onBus s (.write addr n v) =
      .next { s with status := { s.status with hzd := true }, busOut := some .written })

/-- R60, R67, R69: an access that is not wholly inside one window, or has a width or alignment the window refuses, is an
access error at any time: the bus says so and no register, flag or memory changes. -/
def Obligations.AccessErrorsChangeNothing : Prop :=
  ∀ (s : State) (addr : Word) (n : AccessSize), ¬ Mapped addr n →
    onBus s (.read addr n) = .next { s with busOut := some .error } ∧
    ∀ v, onBus s (.write addr n v) = .next { s with busOut := some .error }

/-- R68: the bus is little-endian: a mapped write of 2 or 4 bytes to the file buffer stores its bytes at ascending
addresses, lowest first, every other byte as it was, and a later read of the same access answers the value. -/
def Obligations.FileBufferAccessIsLittleEndian : Prop :=
  ∀ (s : State) (k : Nat) (n : AccessSize) (v : Word), s.status.busy = false → k % n.bytes = 0 →
    k + n.bytes ≤ 16777216 →
    ∃ t, onBus s (.write (BitVec.ofNat 32 (0x10000000 + k)) n v) = .next t ∧
      t = { s with fb := t.fb, busOut := some .written } ∧
      (∀ j < n.bytes, t.fileByte (k + j) = BitVec.ofNat 8 (v.toNat / 256 ^ j)) ∧
      (∀ a, a < k ∨ k + n.bytes ≤ a → t.fileByte a = s.fileByte a) ∧
      onBus t (.read (BitVec.ofNat 32 (0x10000000 + k)) n) =
        .next { t with busOut := some (.data (BitVec.ofNat 32 (v.toNat % 256 ^ n.bytes))),
                       freeCount := t.freeCount + 1 }

/-- R45, R68: the same for the samples of the loaded image: a 1-, 2- or 4-byte write inside it stores the samples, and a
later read of the same access answers them. -/
def Obligations.RasterAccessIsLittleEndian : Prop :=
  ∀ (s : State) (k : Nat) (n : AccessSize) (v : Word), s.ShapeOk → s.status.busy = false → k % n.bytes = 0 →
    k + n.bytes ≤ s.nSamples →
    ∃ t, onBus s (.write (BitVec.ofNat 32 (0x20000000 + k)) n v) = .next t ∧
      t = { s with rb := t.rb, busOut := some .written } ∧
      (∀ j < n.bytes, t.sample (k + j) = BitVec.ofNat 8 (v.toNat / 256 ^ j)) ∧
      (∀ a, a < k ∨ k + n.bytes ≤ a → t.sample a = s.sample a) ∧
      onBus t (.read (BitVec.ofNat 32 (0x20000000 + k)) n) =
        .next { t with busOut := some (.data (BitVec.ofNat 32 (v.toNat % 256 ^ n.bytes))),
                       freeCount := t.freeCount + 1 }

/-- R40: a write of entry `e` of KCOEF stores the low 16 bits and no other entry changes; a read returns them
sign-extended. -/
def Obligations.KernelMemoryKeepsSixteenBits : Prop :=
  ∀ (s : State) (e : Nat) (v : Word), s.status.busy = false → e < 49 →
    ∃ t, onBus s (.write (BitVec.ofNat 32 (0x1000 + 4 * e)) .word v) = .next t ∧
      t = { s with kcoef := t.kcoef, busOut := some .written } ∧
      t.kernelBits e = v.setWidth 16 ∧ (∀ a, a ≠ e → t.kernelBits a = s.kernelBits a) ∧
      onBus t (.read (BitVec.ofNat 32 (0x1000 + 4 * e)) .word) =
        .next { t with busOut := some (.data ((v.setWidth 16).signExtend 32)), freeCount := t.freeCount + 1 }

/-- R41, R42, R43, R70: a write to the read-only windows HIST, CDF, LUT and HDR8 is accepted and ignored. -/
def Obligations.ReadOnlyWindowsIgnoreWrites : Prop :=
  ∀ (s : State) (addr : Word) (n : AccessSize) (v : Word), s.status.busy = false → Mapped addr n →
    ((0x400 ≤ addr.toNat ∧ addr.toNat < 0xD00) ∨ (0x5000 ≤ addr.toNat ∧ addr.toNat < 0x5436)) →
    onBus s (.write addr n v) = .next { s with busOut := some .written }

/-- R210: `irq` is the or of the three enabled flags. At any time a write of STATUS clears each flag whose bit is 1
and leaves the enables, a write of IRQEN sets each enable to its bit and leaves the flags, and with no cause left the
line is low. After reset every source is disabled and `irq` is low. -/
def Obligations.InterruptIsAFunctionOfFlags : Prop :=
  (∀ s : State, s.irq = true ↔
    (s.status.done = true ∧ s.irqen.doneIe = true) ∨ (s.status.errf = true ∧ s.irqen.errIe = true) ∨
    (s.status.hzd = true ∧ s.irqen.hzdIe = true)) ∧
  (∀ (s : State) (w : Word), ∃ t, onBus s (.write 0x04#32 .word w) = .next t ∧ t.irqen = s.irqen ∧
    t.status.done = (s.status.done && !w.getLsbD 1) ∧ t.status.errf = (s.status.errf && !w.getLsbD 2) ∧
    t.status.hzd = (s.status.hzd && !w.getLsbD 3) ∧
    ((w.getLsbD 1 = true ∧ w.getLsbD 2 = true ∧ w.getLsbD 3 = true) → t.irq = false)) ∧
  (∀ (s : State) (w : Word), ∃ t, onBus s (.write 0x0C#32 .word w) = .next t ∧ t.status = s.status ∧
    t.irqen.doneIe = w.getLsbD 1 ∧ t.irqen.errIe = w.getLsbD 2 ∧ t.irqen.hzdIe = w.getLsbD 3 ∧
    ((w.getLsbD 1 = false ∧ w.getLsbD 2 = false ∧ w.getLsbD 3 = false) → t.irq = false)) ∧
  State.reset.irqen.doneIe = false ∧ State.reset.irqen.errIe = false ∧ State.reset.irqen.hzdIe = false ∧
  State.reset.irq = false

/-- R50, R230: `rst` at any time, also with a command in flight, puts every register at its reset value and leaves no
memory item written; the model's own counters and the rest of the agenda go on (log entries 4, 5 and 18). -/
def Obligations.ResetReachesTheResetState : Prop :=
  ∀ (s : State) (rest : List Event), s.agenda = .rst :: rest →
    ∃ t, step s = .next t ∧
      t.ir = 0#32 ∧ t.status.toWord = 0#32 ∧ t.result = .ok ∧ t.irqen.toWord = 0#32 ∧ t.width = 0#32 ∧
      t.height = 0#32 ∧ t.channels = 0#32 ∧ t.flen = 0#32 ∧ t.argw = 0#32 ∧ t.argh = 0#32 ∧ t.argch = 0#32 ∧
      t.krows = 0#32 ∧ t.kcols = 0#32 ∧ t.kdiv = 1#16 ∧ t.pixoff = 0#32 ∧ t.datasize = 0#32 ∧ t.irq = false ∧
      t.kcoef = [] ∧ t.hist = [] ∧ t.cdf = [] ∧ t.lut = [] ∧ t.hdr8 = [] ∧ t.fb = [] ∧ t.rb = [] ∧
      t.powerEpoch = s.powerEpoch + 1 ∧ t.freeCount = s.freeCount ∧ t.agenda = rest ∧ t.busOut = none

/-! # Invariants and whole runs -/

/-- R50: the reset state, with any agenda, is a sound state (`State.Inv`, which gathers what the rules say of the
registers and memories). -/
def Obligations.ResetIsSound : Prop :=
  ∀ agenda : List Event, State.Inv { State.reset with agenda := agenda }

/-- R26 to R28, R40 to R45, R130, R172: every step from a sound state, whatever happens in it, answers a sound state
(the agenda and the canonical form of the memories: log entries 1 and 6). -/
def Obligations.EveryStepKeepsTheStateSound : Prop :=
  ∀ s t : State, s.Inv → step s = .next t → t.Inv

/-- R82, R96, R97, R236: a host program written with the mnemonic lines, every command followed by its `wait`, however
long each command takes, runs to its end from an idle engine with no command left in flight, and never sets HZD (how a
`wait` is shown: log entry 21). -/
def Obligations.WaitingHostNeverBreaksTheBusyRule : Prop :=
  ∀ (polls : Nat) (lines : List HostLine) (s : State), (∀ l ∈ lines, l.waitsForCommands = true) →
    s.status.busy = false → s.status.hzd = false → s.agenda = hostProgram polls lines →
    ∃ t : State, Host.Core.run Sys2Proof.core (hostProgram polls lines).length s = .next t ∧
      t.status.busy = false ∧ t.status.hzd = false ∧ t.agenda = []

/-! # Reads of the memory windows (10_state.md, 20_memory.md) -/

/-- R40 to R45, R61, R68, R70: what a read of each memory window answers while no command is in flight: entry `i` of
HIST, CDF and KCOEF (sign-extended) at its word, and 1, 2 or 4 bytes of LUT, of HDR8 with HDRVALID, of the file buffer
and of the loaded image, lowest address lowest. A read changes nothing but the model's own fields (log entries 2 and
5). -/
def Obligations.WindowReadsAnswer : Prop :=
  ∀ s : State, s.status.busy = false →
    (∀ i < 256, Answers s (BitVec.ofNat 32 (0x400 + 4 * i)) .word (s.histEntry i)) ∧
    (∀ i < 256, Answers s (BitVec.ofNat 32 (0x800 + 4 * i)) .word (s.cdfEntry i)) ∧
    (∀ e < 49, Answers s (BitVec.ofNat 32 (0x1000 + 4 * e)) .word ((s.kernelBits e).signExtend 32)) ∧
    ∀ (k : Nat) (n : AccessSize), k % n.bytes = 0 →
      (k + n.bytes ≤ 256 →
        Answers s (BitVec.ofNat 32 (0xC00 + k)) n (littleEndian n fun j => s.lutEntry (k + j))) ∧
      (s.status.hdrvalid = true → k + n.bytes ≤ 1078 →
        Answers s (BitVec.ofNat 32 (0x5000 + k)) n (littleEndian n fun j => s.headerByte (k + j))) ∧
      (k + n.bytes ≤ 16777216 →
        Answers s (BitVec.ofNat 32 (0x10000000 + k)) n (littleEndian n fun j => s.fileByte (k + j))) ∧
      (k + n.bytes ≤ min s.nSamples 16777216 →
        Answers s (BitVec.ofNat 32 (0x20000000 + k)) n (littleEndian n fun j => s.sample (k + j)))

/-- R43, R45: the unspecified places. While no command is in flight, a read of HDR8 with HDRVALID 0, and one that
reaches beyond the loaded image, answer some value of the access's width (its samples inside the image are theirs) and
change nothing but the model's own fields; a write that reaches beyond the image is taken and changes no sample of the
image but those it covers, and nothing else. What stands beyond the image and what is read there are the model's (log
entries 5 and 8). -/
def Obligations.UnspecifiedPlacesAnswerSomeValue : Prop :=
  ∀ (s : State) (k : Nat) (n : AccessSize), s.status.busy = false → k % n.bytes = 0 →
    (s.status.hdrvalid = false → k + n.bytes ≤ 1078 →
      ∃ v : Word, v.toNat < 256 ^ n.bytes ∧ Answers s (BitVec.ofNat 32 (0x5000 + k)) n v) ∧
    (k + n.bytes ≤ 16777216 → s.nSamples < k + n.bytes →
      (∃ v : Word, v.toNat < 256 ^ n.bytes ∧
        (∀ j < n.bytes, k + j < s.nSamples → BitVec.ofNat 8 (v.toNat / 256 ^ j) = s.sample (k + j)) ∧
        Answers s (BitVec.ofNat 32 (0x20000000 + k)) n v) ∧
      ∀ v : Word, ∃ t, onBus s (.write (BitVec.ofNat 32 (0x20000000 + k)) n v) = .next t ∧
        t = { s with rb := t.rb, busOut := some .written } ∧
        ∀ a < s.nSamples, t.sample a =
          if k ≤ a ∧ a < k + n.bytes then BitVec.ofNat 8 (v.toNat / 256 ^ (a - k)) else s.sample a)
end

