-- ==== Sys2Proof/Laws/Memory.lean ====
section
/-! SUPPORT. What the memory operations do: what a read finds after a write, and that a write keeps the canonical form
and the size. -/

namespace Sys2Proof.Machine

variable {w : Nat}

@[simp] theorem Memory.get?_nil (a : Nat) : Memory.get? ([] : Memory w) a = none := rfl

theorem Memory.get?_cons (b : Nat) (v : BitVec w) (m : Memory w) (a : Nat) :
    Memory.get? ((b, v) :: m) a = if b = a then some v else Memory.get? m a := rfl

theorem Memory.get?_append (m n : Memory w) (a : Nat) :
    Memory.get? (m ++ n) a = (Memory.get? m a).or (Memory.get? n a) := by
  induction m with
  | nil => simp
  | cons c m ih =>
    obtain ⟨b, v⟩ := c
    by_cases h : b = a <;> simp [Memory.get?_cons, h, ih]

/-- A read of a memory cut down to some indices. -/
theorem Memory.get?_filter (m : Memory w) (p : Nat → Bool) (a : Nat) :
    Memory.get? (m.filter fun c => p c.1) a = if p a then Memory.get? m a else none := by
  induction m with
  | nil => simp
  | cons c m ih =>
    obtain ⟨b, v⟩ := c
    by_cases h : b = a
    · subst h
      cases hp : p b <;> simp [hp, Memory.get?_cons, ih]
    · cases hp : p b <;> simp [hp, Memory.get?_cons, h, ih]

/-- A read of a run of items. -/
theorem Memory.get?_run (b : Nat) (vs : List (BitVec w)) (a : Nat) :
    Memory.get? (Memory.run b vs) a = if b ≤ a then vs[a - b]? else none := by
  induction vs generalizing b with
  | nil => simp [Memory.run]
  | cons v vs ih =>
    rw [Memory.run, Memory.get?_cons, ih]
    by_cases h : b = a
    · simp [h]
    · by_cases h' : b ≤ a
      · obtain ⟨k, rfl⟩ : ∃ k, a = b + 1 + k := ⟨a - (b + 1), by omega⟩
        have e : b + 1 + k - b = k + 1 := by omega
        simp [h, h', e, show b + 1 ≤ b + 1 + k by omega]
      · simp [h, h', show ¬ b + 1 ≤ a by omega]

/-- A read after a write: the new item where the write stored, and what was there everywhere else. -/
theorem Memory.get?_write (m : Memory w) (b : Nat) (vs : List (BitVec w)) (a : Nat) :
    Memory.get? (m.write b vs) a = if b ≤ a ∧ a < b + vs.length then vs[a - b]? else Memory.get? m a := by
  unfold Memory.write Memory.below Memory.from
  rw [Memory.get?_append, Memory.get?_append, Memory.get?_run,
    Memory.get?_filter m (fun x => decide (x < b)), Memory.get?_filter m (fun x => decide (b + vs.length ≤ x))]
  by_cases h1 : a < b
  · simp [h1, show ¬ b ≤ a by omega, show ¬ b + vs.length ≤ a by omega]
  · by_cases h2 : b + vs.length ≤ a
    · simp [h1, h2, show ¬ a < b + vs.length by omega, show vs[a - b]? = none by simp; omega]
    · simp [h1, h2, show b ≤ a by omega, show a < b + vs.length by omega]

theorem Memory.get?_write_of_lt (m : Memory w) (b : Nat) (vs : List (BitVec w)) (k : Nat) (h : k < vs.length) :
    Memory.get? (m.write b vs) (b + k) = some vs[k] := by
  rw [Memory.get?_write, if_pos ⟨by omega, by omega⟩]
  simp [h]

theorem Memory.get?_write_of_outside (m : Memory w) (b : Nat) (vs : List (BitVec w)) (a : Nat)
    (h : a < b ∨ b + vs.length ≤ a) : Memory.get? (m.write b vs) a = Memory.get? m a := by
  rw [Memory.get?_write, if_neg (by omega)]

/-- A write only adds listed items. -/
theorem Memory.isSome_get?_write (m : Memory w) (b : Nat) (vs : List (BitVec w)) (a : Nat)
    (h : (Memory.get? m a).isSome) : (Memory.get? (m.write b vs) a).isSome := by
  rw [Memory.get?_write]
  split
  · rw [List.getElem?_eq_getElem (by omega)]
    rfl
  · exact h

/-! ## Items -/

theorem Memory.item_of_get? {m : Memory w} {epoch base step a : Nat} {v : BitVec w} (h : m.get? a = some v) :
    m.item epoch base step a = v := by simp [Memory.item, h]

theorem Memory.item_congr {m n : Memory w} {epoch base step a : Nat} (h : m.get? a = n.get? a) :
    m.item epoch base step a = n.item epoch base step a := by simp [Memory.item, h]

/-- The item at index `a` after a write. -/
theorem Memory.item_write (m : Memory w) (b : Nat) (vs : List (BitVec w)) (epoch base step a : Nat) :
    (m.write b vs).item epoch base step a =
      if h : b ≤ a ∧ a < b + vs.length then vs[a - b] else m.item epoch base step a := by
  by_cases h : b ≤ a ∧ a < b + vs.length
  · simp only [h, and_self, dif_pos]
    apply Memory.item_of_get?
    rw [Memory.get?_write, if_pos h]
    exact List.getElem?_eq_getElem (by omega)
  · rw [dif_neg h]
    exact Memory.item_congr (by rw [Memory.get?_write, if_neg h])

/-! ## Canonical form and size -/

theorem Memory.mem_run {b : Nat} {vs : List (BitVec w)} {c : Nat × BitVec w} (h : c ∈ Memory.run b vs) :
    b ≤ c.1 ∧ c.1 < b + vs.length := by
  induction vs generalizing b with
  | nil => simp [Memory.run] at h
  | cons v vs ih =>
    rw [Memory.run, List.mem_cons] at h
    rcases h with rfl | h
    · simp
    · have := ih h
      simp only [List.length_cons]
      omega

theorem Memory.run_wf (b : Nat) (vs : List (BitVec w)) : (Memory.run b vs).wf := by
  induction vs generalizing b with
  | nil => exact List.Pairwise.nil
  | cons v vs ih => exact List.pairwise_cons.2 ⟨fun c hc => by have := Memory.mem_run hc; omega, ih (b + 1)⟩

/-- Every write keeps the canonical form. -/
theorem Memory.write_wf {m : Memory w} (h : m.wf) (b : Nat) (vs : List (BitVec w)) : (m.write b vs).wf := by
  unfold Memory.write Memory.below Memory.from
  refine List.pairwise_append.2 ⟨h.filter _, List.pairwise_append.2 ⟨Memory.run_wf b vs, h.filter _, ?_⟩, ?_⟩
  · intro c hc d hd
    have := Memory.mem_run hc
    simp only [List.mem_filter, decide_eq_true_eq] at hd
    omega
  · intro c hc d hd
    simp only [List.mem_filter, decide_eq_true_eq] at hc
    rcases List.mem_append.1 hd with hd | hd
    · have := Memory.mem_run hd
      omega
    · simp only [List.mem_filter, decide_eq_true_eq] at hd
      omega

/-- A write inside a memory's size keeps it within its size. -/
theorem Memory.write_within {m : Memory w} {n : Nat} (h : m.within n) (b : Nat) (vs : List (BitVec w))
    (hn : b + vs.length ≤ n) : (m.write b vs).within n := by
  intro c hc
  unfold Memory.write Memory.below Memory.from at hc
  rcases List.mem_append.1 hc with hc | hc
  · exact h c (List.mem_filter.1 hc).1
  · rcases List.mem_append.1 hc with hc | hc
    · have := Memory.mem_run hc
      omega
    · exact h c (List.mem_filter.1 hc).1

theorem Memory.get?_eq_none_of_lt {m : Memory w} {a : Nat} (h : ∀ c ∈ m, a < c.1) : m.get? a = none := by
  induction m with
  | nil => rfl
  | cons c m ih =>
    obtain ⟨b, v⟩ := c
    have hb : a < b := h (b, v) (by simp)
    rw [Memory.get?_cons, if_neg (by omega)]
    exact ih fun c hc => h c (by simp [hc])

/-- Two canonical memories that read alike everywhere are the same data. -/
theorem Memory.ext_of_wf {m n : Memory w} (hm : m.wf) (hn : n.wf) (h : ∀ a, m.get? a = n.get? a) : m = n := by
  induction m generalizing n with
  | nil =>
    cases n with
    | nil => rfl
    | cons d n => have := h d.1; simp [Memory.get?] at this
  | cons c m ih =>
    cases n with
    | nil => have := h c.1; simp [Memory.get?] at this
    | cons d n =>
      obtain ⟨b, v⟩ := c
      obtain ⟨b', v'⟩ := d
      obtain ⟨hm1, hm2⟩ := List.pairwise_cons.1 hm
      obtain ⟨hn1, hn2⟩ := List.pairwise_cons.1 hn
      have hb : b = b' := by
        have h1 := h b
        have h2 := h b'
        rw [Memory.get?_cons, Memory.get?_cons] at h1 h2
        simp only [if_true] at h1 h2
        by_contra hne
        rw [if_neg (fun e => hne e.symm)] at h1
        rw [if_neg hne] at h2
        rcases Nat.lt_or_gt_of_ne hne with hlt | hlt
        · rw [Memory.get?_eq_none_of_lt fun c hc => by have := hn1 c hc; simp at this; omega] at h1
          cases h1
        · rw [Memory.get?_eq_none_of_lt fun c hc => by have := hm1 c hc; simp at this; omega] at h2
          cases h2
      subst hb
      have hv : v = v' := by have := h b; simpa [Memory.get?_cons] using this
      subst hv
      congr 1
      refine ih hm2 hn2 fun a => ?_
      by_cases e : b = a
      · subst e
        rw [Memory.get?_eq_none_of_lt fun c hc => hm1 c hc, Memory.get?_eq_none_of_lt fun c hc => hn1 c hc]
      · have := h a
        simpa [Memory.get?_cons, e] using this

end Sys2Proof.Machine
end

