-- ==== Sys2Proof/Laws/State.lean ====
section
/-! SUPPORT. What each shared update of the state makes of each field, one lemma a field, so that no proof unfolds a
record update. -/

namespace Sys2Proof.Machine

/-! ## `State.complete` -/

@[simp] theorem State.complete_ir (s : State) (r : ResultCode) : (s.complete r).ir = s.ir := rfl
@[simp] theorem State.complete_status (s : State) (r : ResultCode) :
    (s.complete r).status = s.status.completed r := rfl
@[simp] theorem State.complete_result (s : State) (r : ResultCode) : (s.complete r).result = r := rfl
@[simp] theorem State.complete_irqen (s : State) (r : ResultCode) : (s.complete r).irqen = s.irqen := rfl
@[simp] theorem State.complete_width (s : State) (r : ResultCode) : (s.complete r).width = s.width := rfl
@[simp] theorem State.complete_height (s : State) (r : ResultCode) : (s.complete r).height = s.height := rfl
@[simp] theorem State.complete_channels (s : State) (r : ResultCode) : (s.complete r).channels = s.channels := rfl
@[simp] theorem State.complete_flen (s : State) (r : ResultCode) : (s.complete r).flen = s.flen := rfl
@[simp] theorem State.complete_argw (s : State) (r : ResultCode) : (s.complete r).argw = s.argw := rfl
@[simp] theorem State.complete_argh (s : State) (r : ResultCode) : (s.complete r).argh = s.argh := rfl
@[simp] theorem State.complete_argch (s : State) (r : ResultCode) : (s.complete r).argch = s.argch := rfl
@[simp] theorem State.complete_krows (s : State) (r : ResultCode) : (s.complete r).krows = s.krows := rfl
@[simp] theorem State.complete_kcols (s : State) (r : ResultCode) : (s.complete r).kcols = s.kcols := rfl
@[simp] theorem State.complete_kdiv (s : State) (r : ResultCode) : (s.complete r).kdiv = s.kdiv := rfl
@[simp] theorem State.complete_pixoff (s : State) (r : ResultCode) : (s.complete r).pixoff = s.pixoff := rfl
@[simp] theorem State.complete_datasize (s : State) (r : ResultCode) : (s.complete r).datasize = s.datasize := rfl
@[simp] theorem State.complete_kcoef (s : State) (r : ResultCode) : (s.complete r).kcoef = s.kcoef := rfl
@[simp] theorem State.complete_hist (s : State) (r : ResultCode) : (s.complete r).hist = s.hist := rfl
@[simp] theorem State.complete_cdf (s : State) (r : ResultCode) : (s.complete r).cdf = s.cdf := rfl
@[simp] theorem State.complete_lut (s : State) (r : ResultCode) : (s.complete r).lut = s.lut := rfl
@[simp] theorem State.complete_hdr8 (s : State) (r : ResultCode) : (s.complete r).hdr8 = s.hdr8 := rfl
@[simp] theorem State.complete_fb (s : State) (r : ResultCode) : (s.complete r).fb = s.fb := rfl
@[simp] theorem State.complete_rb (s : State) (r : ResultCode) : (s.complete r).rb = s.rb := rfl
@[simp] theorem State.complete_powerEpoch (s : State) (r : ResultCode) :
    (s.complete r).powerEpoch = s.powerEpoch := rfl
@[simp] theorem State.complete_freeCount (s : State) (r : ResultCode) : (s.complete r).freeCount = s.freeCount := rfl
@[simp] theorem State.complete_agenda (s : State) (r : ResultCode) : (s.complete r).agenda = s.agenda := rfl
@[simp] theorem State.complete_busOut (s : State) (r : ResultCode) : (s.complete r).busOut = s.busOut := rfl

/-! ## `State.acknowledge` -/

@[simp] theorem State.acknowledge_ir (s : State) (w : Word) : (s.acknowledge w).ir = s.ir := rfl
@[simp] theorem State.acknowledge_status (s : State) (w : Word) :
    (s.acknowledge w).status = s.status.clearedBy w := rfl
@[simp] theorem State.acknowledge_result (s : State) (w : Word) : (s.acknowledge w).result = s.result := rfl
@[simp] theorem State.acknowledge_irqen (s : State) (w : Word) : (s.acknowledge w).irqen = s.irqen := rfl
@[simp] theorem State.acknowledge_width (s : State) (w : Word) : (s.acknowledge w).width = s.width := rfl
@[simp] theorem State.acknowledge_height (s : State) (w : Word) : (s.acknowledge w).height = s.height := rfl
@[simp] theorem State.acknowledge_channels (s : State) (w : Word) : (s.acknowledge w).channels = s.channels := rfl
@[simp] theorem State.acknowledge_flen (s : State) (w : Word) : (s.acknowledge w).flen = s.flen := rfl
@[simp] theorem State.acknowledge_argw (s : State) (w : Word) : (s.acknowledge w).argw = s.argw := rfl
@[simp] theorem State.acknowledge_argh (s : State) (w : Word) : (s.acknowledge w).argh = s.argh := rfl
@[simp] theorem State.acknowledge_argch (s : State) (w : Word) : (s.acknowledge w).argch = s.argch := rfl
@[simp] theorem State.acknowledge_krows (s : State) (w : Word) : (s.acknowledge w).krows = s.krows := rfl
@[simp] theorem State.acknowledge_kcols (s : State) (w : Word) : (s.acknowledge w).kcols = s.kcols := rfl
@[simp] theorem State.acknowledge_kdiv (s : State) (w : Word) : (s.acknowledge w).kdiv = s.kdiv := rfl
@[simp] theorem State.acknowledge_pixoff (s : State) (w : Word) : (s.acknowledge w).pixoff = s.pixoff := rfl
@[simp] theorem State.acknowledge_datasize (s : State) (w : Word) : (s.acknowledge w).datasize = s.datasize := rfl
@[simp] theorem State.acknowledge_kcoef (s : State) (w : Word) : (s.acknowledge w).kcoef = s.kcoef := rfl
@[simp] theorem State.acknowledge_hist (s : State) (w : Word) : (s.acknowledge w).hist = s.hist := rfl
@[simp] theorem State.acknowledge_cdf (s : State) (w : Word) : (s.acknowledge w).cdf = s.cdf := rfl
@[simp] theorem State.acknowledge_lut (s : State) (w : Word) : (s.acknowledge w).lut = s.lut := rfl
@[simp] theorem State.acknowledge_hdr8 (s : State) (w : Word) : (s.acknowledge w).hdr8 = s.hdr8 := rfl
@[simp] theorem State.acknowledge_fb (s : State) (w : Word) : (s.acknowledge w).fb = s.fb := rfl
@[simp] theorem State.acknowledge_rb (s : State) (w : Word) : (s.acknowledge w).rb = s.rb := rfl
@[simp] theorem State.acknowledge_powerEpoch (s : State) (w : Word) :
    (s.acknowledge w).powerEpoch = s.powerEpoch := rfl
@[simp] theorem State.acknowledge_freeCount (s : State) (w : Word) : (s.acknowledge w).freeCount = s.freeCount := rfl
@[simp] theorem State.acknowledge_agenda (s : State) (w : Word) : (s.acknowledge w).agenda = s.agenda := rfl
@[simp] theorem State.acknowledge_busOut (s : State) (w : Word) : (s.acknowledge w).busOut = s.busOut := rfl

/-! ## `State.storeRaster` -/

@[simp] theorem State.storeRaster_ir (s : State) (vs : List Byte) : (s.storeRaster vs).ir = s.ir := rfl
@[simp] theorem State.storeRaster_status (s : State) (vs : List Byte) : (s.storeRaster vs).status = s.status := rfl
@[simp] theorem State.storeRaster_result (s : State) (vs : List Byte) : (s.storeRaster vs).result = s.result := rfl
@[simp] theorem State.storeRaster_irqen (s : State) (vs : List Byte) : (s.storeRaster vs).irqen = s.irqen := rfl
@[simp] theorem State.storeRaster_width (s : State) (vs : List Byte) : (s.storeRaster vs).width = s.width := rfl
@[simp] theorem State.storeRaster_height (s : State) (vs : List Byte) : (s.storeRaster vs).height = s.height := rfl
@[simp] theorem State.storeRaster_channels (s : State) (vs : List Byte) :
    (s.storeRaster vs).channels = s.channels := rfl
@[simp] theorem State.storeRaster_flen (s : State) (vs : List Byte) : (s.storeRaster vs).flen = s.flen := rfl
@[simp] theorem State.storeRaster_argw (s : State) (vs : List Byte) : (s.storeRaster vs).argw = s.argw := rfl
@[simp] theorem State.storeRaster_argh (s : State) (vs : List Byte) : (s.storeRaster vs).argh = s.argh := rfl
@[simp] theorem State.storeRaster_argch (s : State) (vs : List Byte) : (s.storeRaster vs).argch = s.argch := rfl
@[simp] theorem State.storeRaster_krows (s : State) (vs : List Byte) : (s.storeRaster vs).krows = s.krows := rfl
@[simp] theorem State.storeRaster_kcols (s : State) (vs : List Byte) : (s.storeRaster vs).kcols = s.kcols := rfl
@[simp] theorem State.storeRaster_kdiv (s : State) (vs : List Byte) : (s.storeRaster vs).kdiv = s.kdiv := rfl
@[simp] theorem State.storeRaster_pixoff (s : State) (vs : List Byte) : (s.storeRaster vs).pixoff = s.pixoff := rfl
@[simp] theorem State.storeRaster_datasize (s : State) (vs : List Byte) :
    (s.storeRaster vs).datasize = s.datasize := rfl
@[simp] theorem State.storeRaster_kcoef (s : State) (vs : List Byte) : (s.storeRaster vs).kcoef = s.kcoef := rfl
@[simp] theorem State.storeRaster_hist (s : State) (vs : List Byte) : (s.storeRaster vs).hist = s.hist := rfl
@[simp] theorem State.storeRaster_cdf (s : State) (vs : List Byte) : (s.storeRaster vs).cdf = s.cdf := rfl
@[simp] theorem State.storeRaster_lut (s : State) (vs : List Byte) : (s.storeRaster vs).lut = s.lut := rfl
@[simp] theorem State.storeRaster_hdr8 (s : State) (vs : List Byte) : (s.storeRaster vs).hdr8 = s.hdr8 := rfl
@[simp] theorem State.storeRaster_fb (s : State) (vs : List Byte) : (s.storeRaster vs).fb = s.fb := rfl
@[simp] theorem State.storeRaster_rb (s : State) (vs : List Byte) : (s.storeRaster vs).rb = s.rb.write 0 vs := rfl
@[simp] theorem State.storeRaster_powerEpoch (s : State) (vs : List Byte) :
    (s.storeRaster vs).powerEpoch = s.powerEpoch := rfl
@[simp] theorem State.storeRaster_freeCount (s : State) (vs : List Byte) :
    (s.storeRaster vs).freeCount = s.freeCount := rfl
@[simp] theorem State.storeRaster_agenda (s : State) (vs : List Byte) : (s.storeRaster vs).agenda = s.agenda := rfl
@[simp] theorem State.storeRaster_busOut (s : State) (vs : List Byte) : (s.storeRaster vs).busOut = s.busOut := rfl

/-! ## `State.storeTables` -/

@[simp] theorem State.storeTables_ir (s : State) (ls : List Nat) : (s.storeTables ls).ir = s.ir := rfl
@[simp] theorem State.storeTables_status (s : State) (ls : List Nat) : (s.storeTables ls).status = s.status := rfl
@[simp] theorem State.storeTables_result (s : State) (ls : List Nat) : (s.storeTables ls).result = s.result := rfl
@[simp] theorem State.storeTables_irqen (s : State) (ls : List Nat) : (s.storeTables ls).irqen = s.irqen := rfl
@[simp] theorem State.storeTables_width (s : State) (ls : List Nat) : (s.storeTables ls).width = s.width := rfl
@[simp] theorem State.storeTables_height (s : State) (ls : List Nat) : (s.storeTables ls).height = s.height := rfl
@[simp] theorem State.storeTables_channels (s : State) (ls : List Nat) :
    (s.storeTables ls).channels = s.channels := rfl
@[simp] theorem State.storeTables_flen (s : State) (ls : List Nat) : (s.storeTables ls).flen = s.flen := rfl
@[simp] theorem State.storeTables_argw (s : State) (ls : List Nat) : (s.storeTables ls).argw = s.argw := rfl
@[simp] theorem State.storeTables_argh (s : State) (ls : List Nat) : (s.storeTables ls).argh = s.argh := rfl
@[simp] theorem State.storeTables_argch (s : State) (ls : List Nat) : (s.storeTables ls).argch = s.argch := rfl
@[simp] theorem State.storeTables_krows (s : State) (ls : List Nat) : (s.storeTables ls).krows = s.krows := rfl
@[simp] theorem State.storeTables_kcols (s : State) (ls : List Nat) : (s.storeTables ls).kcols = s.kcols := rfl
@[simp] theorem State.storeTables_kdiv (s : State) (ls : List Nat) : (s.storeTables ls).kdiv = s.kdiv := rfl
@[simp] theorem State.storeTables_pixoff (s : State) (ls : List Nat) : (s.storeTables ls).pixoff = s.pixoff := rfl
@[simp] theorem State.storeTables_datasize (s : State) (ls : List Nat) :
    (s.storeTables ls).datasize = s.datasize := rfl
@[simp] theorem State.storeTables_kcoef (s : State) (ls : List Nat) : (s.storeTables ls).kcoef = s.kcoef := rfl
@[simp] theorem State.storeTables_hist (s : State) (ls : List Nat) :
    (s.storeTables ls).hist = s.hist.write 0 ((histogram ls).map (BitVec.ofNat 32)) := rfl
@[simp] theorem State.storeTables_cdf (s : State) (ls : List Nat) :
    (s.storeTables ls).cdf = s.cdf.write 0 ((cdfOf (histogram ls)).map (BitVec.ofNat 32)) := rfl
@[simp] theorem State.storeTables_lut (s : State) (ls : List Nat) : (s.storeTables ls).lut = s.lut := rfl
@[simp] theorem State.storeTables_hdr8 (s : State) (ls : List Nat) : (s.storeTables ls).hdr8 = s.hdr8 := rfl
@[simp] theorem State.storeTables_fb (s : State) (ls : List Nat) : (s.storeTables ls).fb = s.fb := rfl
@[simp] theorem State.storeTables_rb (s : State) (ls : List Nat) : (s.storeTables ls).rb = s.rb := rfl
@[simp] theorem State.storeTables_powerEpoch (s : State) (ls : List Nat) :
    (s.storeTables ls).powerEpoch = s.powerEpoch := rfl
@[simp] theorem State.storeTables_freeCount (s : State) (ls : List Nat) :
    (s.storeTables ls).freeCount = s.freeCount := rfl
@[simp] theorem State.storeTables_agenda (s : State) (ls : List Nat) : (s.storeTables ls).agenda = s.agenda := rfl
@[simp] theorem State.storeTables_busOut (s : State) (ls : List Nat) : (s.storeTables ls).busOut = s.busOut := rfl

/-! ## `State.storeRemap` -/

@[simp] theorem State.storeRemap_ir (s : State) (lut : List Nat) (vs : List Byte) :
    (s.storeRemap lut vs).ir = s.ir := rfl
@[simp] theorem State.storeRemap_status (s : State) (lut : List Nat) (vs : List Byte) :
    (s.storeRemap lut vs).status = s.status := rfl
@[simp] theorem State.storeRemap_result (s : State) (lut : List Nat) (vs : List Byte) :
    (s.storeRemap lut vs).result = s.result := rfl
@[simp] theorem State.storeRemap_irqen (s : State) (lut : List Nat) (vs : List Byte) :
    (s.storeRemap lut vs).irqen = s.irqen := rfl
@[simp] theorem State.storeRemap_width (s : State) (lut : List Nat) (vs : List Byte) :
    (s.storeRemap lut vs).width = s.width := rfl
@[simp] theorem State.storeRemap_height (s : State) (lut : List Nat) (vs : List Byte) :
    (s.storeRemap lut vs).height = s.height := rfl
@[simp] theorem State.storeRemap_channels (s : State) (lut : List Nat) (vs : List Byte) :
    (s.storeRemap lut vs).channels = s.channels := rfl
@[simp] theorem State.storeRemap_flen (s : State) (lut : List Nat) (vs : List Byte) :
    (s.storeRemap lut vs).flen = s.flen := rfl
@[simp] theorem State.storeRemap_argw (s : State) (lut : List Nat) (vs : List Byte) :
    (s.storeRemap lut vs).argw = s.argw := rfl
@[simp] theorem State.storeRemap_argh (s : State) (lut : List Nat) (vs : List Byte) :
    (s.storeRemap lut vs).argh = s.argh := rfl
@[simp] theorem State.storeRemap_argch (s : State) (lut : List Nat) (vs : List Byte) :
    (s.storeRemap lut vs).argch = s.argch := rfl
@[simp] theorem State.storeRemap_krows (s : State) (lut : List Nat) (vs : List Byte) :
    (s.storeRemap lut vs).krows = s.krows := rfl
@[simp] theorem State.storeRemap_kcols (s : State) (lut : List Nat) (vs : List Byte) :
    (s.storeRemap lut vs).kcols = s.kcols := rfl
@[simp] theorem State.storeRemap_kdiv (s : State) (lut : List Nat) (vs : List Byte) :
    (s.storeRemap lut vs).kdiv = s.kdiv := rfl
@[simp] theorem State.storeRemap_pixoff (s : State) (lut : List Nat) (vs : List Byte) :
    (s.storeRemap lut vs).pixoff = s.pixoff := rfl
@[simp] theorem State.storeRemap_datasize (s : State) (lut : List Nat) (vs : List Byte) :
    (s.storeRemap lut vs).datasize = s.datasize := rfl
@[simp] theorem State.storeRemap_kcoef (s : State) (lut : List Nat) (vs : List Byte) :
    (s.storeRemap lut vs).kcoef = s.kcoef := rfl
@[simp] theorem State.storeRemap_hist (s : State) (lut : List Nat) (vs : List Byte) :
    (s.storeRemap lut vs).hist = s.hist := rfl
@[simp] theorem State.storeRemap_cdf (s : State) (lut : List Nat) (vs : List Byte) :
    (s.storeRemap lut vs).cdf = s.cdf := rfl
@[simp] theorem State.storeRemap_lut (s : State) (lut : List Nat) (vs : List Byte) :
    (s.storeRemap lut vs).lut = s.lut.write 0 (lut.map (BitVec.ofNat 8)) := rfl
@[simp] theorem State.storeRemap_hdr8 (s : State) (lut : List Nat) (vs : List Byte) :
    (s.storeRemap lut vs).hdr8 = s.hdr8 := rfl
@[simp] theorem State.storeRemap_fb (s : State) (lut : List Nat) (vs : List Byte) :
    (s.storeRemap lut vs).fb = s.fb := rfl
@[simp] theorem State.storeRemap_rb (s : State) (lut : List Nat) (vs : List Byte) :
    (s.storeRemap lut vs).rb = s.rb.write 0 vs := rfl
@[simp] theorem State.storeRemap_powerEpoch (s : State) (lut : List Nat) (vs : List Byte) :
    (s.storeRemap lut vs).powerEpoch = s.powerEpoch := rfl
@[simp] theorem State.storeRemap_freeCount (s : State) (lut : List Nat) (vs : List Byte) :
    (s.storeRemap lut vs).freeCount = s.freeCount := rfl
@[simp] theorem State.storeRemap_agenda (s : State) (lut : List Nat) (vs : List Byte) :
    (s.storeRemap lut vs).agenda = s.agenda := rfl
@[simp] theorem State.storeRemap_busOut (s : State) (lut : List Nat) (vs : List Byte) :
    (s.storeRemap lut vs).busOut = s.busOut := rfl

/-! ## `State.commitFile` -/

@[simp] theorem State.commitFile_ir (s : State) (f : DecodedFile) : (s.commitFile f).ir = s.ir := rfl
@[simp] theorem State.commitFile_status (s : State) (f : DecodedFile) :
    (s.commitFile f).status = { s.status with bufvalid := true, hdrvalid := f.header.isSome } := rfl
@[simp] theorem State.commitFile_result (s : State) (f : DecodedFile) : (s.commitFile f).result = s.result := rfl
@[simp] theorem State.commitFile_irqen (s : State) (f : DecodedFile) : (s.commitFile f).irqen = s.irqen := rfl
@[simp] theorem State.commitFile_width (s : State) (f : DecodedFile) :
    (s.commitFile f).width = BitVec.ofNat 32 f.width := rfl
@[simp] theorem State.commitFile_height (s : State) (f : DecodedFile) :
    (s.commitFile f).height = BitVec.ofNat 32 f.height := rfl
@[simp] theorem State.commitFile_channels (s : State) (f : DecodedFile) :
    (s.commitFile f).channels = BitVec.ofNat 32 f.channels := rfl
@[simp] theorem State.commitFile_flen (s : State) (f : DecodedFile) : (s.commitFile f).flen = s.flen := rfl
@[simp] theorem State.commitFile_argw (s : State) (f : DecodedFile) : (s.commitFile f).argw = s.argw := rfl
@[simp] theorem State.commitFile_argh (s : State) (f : DecodedFile) : (s.commitFile f).argh = s.argh := rfl
@[simp] theorem State.commitFile_argch (s : State) (f : DecodedFile) : (s.commitFile f).argch = s.argch := rfl
@[simp] theorem State.commitFile_krows (s : State) (f : DecodedFile) : (s.commitFile f).krows = s.krows := rfl
@[simp] theorem State.commitFile_kcols (s : State) (f : DecodedFile) : (s.commitFile f).kcols = s.kcols := rfl
@[simp] theorem State.commitFile_kdiv (s : State) (f : DecodedFile) : (s.commitFile f).kdiv = s.kdiv := rfl
@[simp] theorem State.commitFile_pixoff (s : State) (f : DecodedFile) :
    (s.commitFile f).pixoff = BitVec.ofNat 32 f.pixoff := rfl
@[simp] theorem State.commitFile_datasize (s : State) (f : DecodedFile) :
    (s.commitFile f).datasize = BitVec.ofNat 32 f.datasize := rfl
@[simp] theorem State.commitFile_kcoef (s : State) (f : DecodedFile) : (s.commitFile f).kcoef = s.kcoef := rfl
@[simp] theorem State.commitFile_hist (s : State) (f : DecodedFile) : (s.commitFile f).hist = s.hist := rfl
@[simp] theorem State.commitFile_cdf (s : State) (f : DecodedFile) : (s.commitFile f).cdf = s.cdf := rfl
@[simp] theorem State.commitFile_lut (s : State) (f : DecodedFile) : (s.commitFile f).lut = s.lut := rfl
@[simp] theorem State.commitFile_fb (s : State) (f : DecodedFile) : (s.commitFile f).fb = s.fb := rfl
@[simp] theorem State.commitFile_rb (s : State) (f : DecodedFile) :
    (s.commitFile f).rb = s.rb.write 0 f.samples := rfl
@[simp] theorem State.commitFile_powerEpoch (s : State) (f : DecodedFile) :
    (s.commitFile f).powerEpoch = s.powerEpoch := rfl
@[simp] theorem State.commitFile_freeCount (s : State) (f : DecodedFile) :
    (s.commitFile f).freeCount = s.freeCount := rfl
@[simp] theorem State.commitFile_agenda (s : State) (f : DecodedFile) : (s.commitFile f).agenda = s.agenda := rfl
@[simp] theorem State.commitFile_busOut (s : State) (f : DecodedFile) : (s.commitFile f).busOut = s.busOut := rfl

/-! ## `State.violate` -/

@[simp] theorem State.violate_ir (s : State) : (s.violate).ir = s.ir := rfl
@[simp] theorem State.violate_status (s : State) : (s.violate).status = { s.status with hzd := true } := rfl
@[simp] theorem State.violate_result (s : State) : (s.violate).result = s.result := rfl
@[simp] theorem State.violate_irqen (s : State) : (s.violate).irqen = s.irqen := rfl
@[simp] theorem State.violate_width (s : State) : (s.violate).width = s.width := rfl
@[simp] theorem State.violate_height (s : State) : (s.violate).height = s.height := rfl
@[simp] theorem State.violate_channels (s : State) : (s.violate).channels = s.channels := rfl
@[simp] theorem State.violate_flen (s : State) : (s.violate).flen = s.flen := rfl
@[simp] theorem State.violate_argw (s : State) : (s.violate).argw = s.argw := rfl
@[simp] theorem State.violate_argh (s : State) : (s.violate).argh = s.argh := rfl
@[simp] theorem State.violate_argch (s : State) : (s.violate).argch = s.argch := rfl
@[simp] theorem State.violate_krows (s : State) : (s.violate).krows = s.krows := rfl
@[simp] theorem State.violate_kcols (s : State) : (s.violate).kcols = s.kcols := rfl
@[simp] theorem State.violate_kdiv (s : State) : (s.violate).kdiv = s.kdiv := rfl
@[simp] theorem State.violate_pixoff (s : State) : (s.violate).pixoff = s.pixoff := rfl
@[simp] theorem State.violate_datasize (s : State) : (s.violate).datasize = s.datasize := rfl
@[simp] theorem State.violate_kcoef (s : State) : (s.violate).kcoef = s.kcoef := rfl
@[simp] theorem State.violate_hist (s : State) : (s.violate).hist = s.hist := rfl
@[simp] theorem State.violate_cdf (s : State) : (s.violate).cdf = s.cdf := rfl
@[simp] theorem State.violate_lut (s : State) : (s.violate).lut = s.lut := rfl
@[simp] theorem State.violate_hdr8 (s : State) : (s.violate).hdr8 = s.hdr8 := rfl
@[simp] theorem State.violate_fb (s : State) : (s.violate).fb = s.fb := rfl
@[simp] theorem State.violate_rb (s : State) : (s.violate).rb = s.rb := rfl
@[simp] theorem State.violate_powerEpoch (s : State) : (s.violate).powerEpoch = s.powerEpoch := rfl
@[simp] theorem State.violate_freeCount (s : State) : (s.violate).freeCount = s.freeCount := rfl
@[simp] theorem State.violate_agenda (s : State) : (s.violate).agenda = s.agenda := rfl
@[simp] theorem State.violate_busOut (s : State) : (s.violate).busOut = s.busOut := rfl

/-! ## `State.answerRead` -/

@[simp] theorem State.answerRead_ir (s : State) (v : Word) : (s.answerRead v).ir = s.ir := rfl
@[simp] theorem State.answerRead_status (s : State) (v : Word) : (s.answerRead v).status = s.status := rfl
@[simp] theorem State.answerRead_result (s : State) (v : Word) : (s.answerRead v).result = s.result := rfl
@[simp] theorem State.answerRead_irqen (s : State) (v : Word) : (s.answerRead v).irqen = s.irqen := rfl
@[simp] theorem State.answerRead_width (s : State) (v : Word) : (s.answerRead v).width = s.width := rfl
@[simp] theorem State.answerRead_height (s : State) (v : Word) : (s.answerRead v).height = s.height := rfl
@[simp] theorem State.answerRead_channels (s : State) (v : Word) : (s.answerRead v).channels = s.channels := rfl
@[simp] theorem State.answerRead_flen (s : State) (v : Word) : (s.answerRead v).flen = s.flen := rfl
@[simp] theorem State.answerRead_argw (s : State) (v : Word) : (s.answerRead v).argw = s.argw := rfl
@[simp] theorem State.answerRead_argh (s : State) (v : Word) : (s.answerRead v).argh = s.argh := rfl
@[simp] theorem State.answerRead_argch (s : State) (v : Word) : (s.answerRead v).argch = s.argch := rfl
@[simp] theorem State.answerRead_krows (s : State) (v : Word) : (s.answerRead v).krows = s.krows := rfl
@[simp] theorem State.answerRead_kcols (s : State) (v : Word) : (s.answerRead v).kcols = s.kcols := rfl
@[simp] theorem State.answerRead_kdiv (s : State) (v : Word) : (s.answerRead v).kdiv = s.kdiv := rfl
@[simp] theorem State.answerRead_pixoff (s : State) (v : Word) : (s.answerRead v).pixoff = s.pixoff := rfl
@[simp] theorem State.answerRead_datasize (s : State) (v : Word) : (s.answerRead v).datasize = s.datasize := rfl
@[simp] theorem State.answerRead_kcoef (s : State) (v : Word) : (s.answerRead v).kcoef = s.kcoef := rfl
@[simp] theorem State.answerRead_hist (s : State) (v : Word) : (s.answerRead v).hist = s.hist := rfl
@[simp] theorem State.answerRead_cdf (s : State) (v : Word) : (s.answerRead v).cdf = s.cdf := rfl
@[simp] theorem State.answerRead_lut (s : State) (v : Word) : (s.answerRead v).lut = s.lut := rfl
@[simp] theorem State.answerRead_hdr8 (s : State) (v : Word) : (s.answerRead v).hdr8 = s.hdr8 := rfl
@[simp] theorem State.answerRead_fb (s : State) (v : Word) : (s.answerRead v).fb = s.fb := rfl
@[simp] theorem State.answerRead_rb (s : State) (v : Word) : (s.answerRead v).rb = s.rb := rfl
@[simp] theorem State.answerRead_powerEpoch (s : State) (v : Word) : (s.answerRead v).powerEpoch = s.powerEpoch := rfl
@[simp] theorem State.answerRead_freeCount (s : State) (v : Word) :
    (s.answerRead v).freeCount = s.freeCount + 1 := rfl
@[simp] theorem State.answerRead_agenda (s : State) (v : Word) : (s.answerRead v).agenda = s.agenda := rfl
@[simp] theorem State.answerRead_busOut (s : State) (v : Word) : (s.answerRead v).busOut = some (.data v) := rfl

/-! ## `State.answerWrite` -/

@[simp] theorem State.answerWrite_ir (s : State) : (s.answerWrite).ir = s.ir := rfl
@[simp] theorem State.answerWrite_status (s : State) : (s.answerWrite).status = s.status := rfl
@[simp] theorem State.answerWrite_result (s : State) : (s.answerWrite).result = s.result := rfl
@[simp] theorem State.answerWrite_irqen (s : State) : (s.answerWrite).irqen = s.irqen := rfl
@[simp] theorem State.answerWrite_width (s : State) : (s.answerWrite).width = s.width := rfl
@[simp] theorem State.answerWrite_height (s : State) : (s.answerWrite).height = s.height := rfl
@[simp] theorem State.answerWrite_channels (s : State) : (s.answerWrite).channels = s.channels := rfl
@[simp] theorem State.answerWrite_flen (s : State) : (s.answerWrite).flen = s.flen := rfl
@[simp] theorem State.answerWrite_argw (s : State) : (s.answerWrite).argw = s.argw := rfl
@[simp] theorem State.answerWrite_argh (s : State) : (s.answerWrite).argh = s.argh := rfl
@[simp] theorem State.answerWrite_argch (s : State) : (s.answerWrite).argch = s.argch := rfl
@[simp] theorem State.answerWrite_krows (s : State) : (s.answerWrite).krows = s.krows := rfl
@[simp] theorem State.answerWrite_kcols (s : State) : (s.answerWrite).kcols = s.kcols := rfl
@[simp] theorem State.answerWrite_kdiv (s : State) : (s.answerWrite).kdiv = s.kdiv := rfl
@[simp] theorem State.answerWrite_pixoff (s : State) : (s.answerWrite).pixoff = s.pixoff := rfl
@[simp] theorem State.answerWrite_datasize (s : State) : (s.answerWrite).datasize = s.datasize := rfl
@[simp] theorem State.answerWrite_kcoef (s : State) : (s.answerWrite).kcoef = s.kcoef := rfl
@[simp] theorem State.answerWrite_hist (s : State) : (s.answerWrite).hist = s.hist := rfl
@[simp] theorem State.answerWrite_cdf (s : State) : (s.answerWrite).cdf = s.cdf := rfl
@[simp] theorem State.answerWrite_lut (s : State) : (s.answerWrite).lut = s.lut := rfl
@[simp] theorem State.answerWrite_hdr8 (s : State) : (s.answerWrite).hdr8 = s.hdr8 := rfl
@[simp] theorem State.answerWrite_fb (s : State) : (s.answerWrite).fb = s.fb := rfl
@[simp] theorem State.answerWrite_rb (s : State) : (s.answerWrite).rb = s.rb := rfl
@[simp] theorem State.answerWrite_powerEpoch (s : State) : (s.answerWrite).powerEpoch = s.powerEpoch := rfl
@[simp] theorem State.answerWrite_freeCount (s : State) : (s.answerWrite).freeCount = s.freeCount := rfl
@[simp] theorem State.answerWrite_agenda (s : State) : (s.answerWrite).agenda = s.agenda := rfl
@[simp] theorem State.answerWrite_busOut (s : State) : (s.answerWrite).busOut = some .written := rfl

/-! ## `State.answerError` -/

@[simp] theorem State.answerError_ir (s : State) : (s.answerError).ir = s.ir := rfl
@[simp] theorem State.answerError_status (s : State) : (s.answerError).status = s.status := rfl
@[simp] theorem State.answerError_result (s : State) : (s.answerError).result = s.result := rfl
@[simp] theorem State.answerError_irqen (s : State) : (s.answerError).irqen = s.irqen := rfl
@[simp] theorem State.answerError_width (s : State) : (s.answerError).width = s.width := rfl
@[simp] theorem State.answerError_height (s : State) : (s.answerError).height = s.height := rfl
@[simp] theorem State.answerError_channels (s : State) : (s.answerError).channels = s.channels := rfl
@[simp] theorem State.answerError_flen (s : State) : (s.answerError).flen = s.flen := rfl
@[simp] theorem State.answerError_argw (s : State) : (s.answerError).argw = s.argw := rfl
@[simp] theorem State.answerError_argh (s : State) : (s.answerError).argh = s.argh := rfl
@[simp] theorem State.answerError_argch (s : State) : (s.answerError).argch = s.argch := rfl
@[simp] theorem State.answerError_krows (s : State) : (s.answerError).krows = s.krows := rfl
@[simp] theorem State.answerError_kcols (s : State) : (s.answerError).kcols = s.kcols := rfl
@[simp] theorem State.answerError_kdiv (s : State) : (s.answerError).kdiv = s.kdiv := rfl
@[simp] theorem State.answerError_pixoff (s : State) : (s.answerError).pixoff = s.pixoff := rfl
@[simp] theorem State.answerError_datasize (s : State) : (s.answerError).datasize = s.datasize := rfl
@[simp] theorem State.answerError_kcoef (s : State) : (s.answerError).kcoef = s.kcoef := rfl
@[simp] theorem State.answerError_hist (s : State) : (s.answerError).hist = s.hist := rfl
@[simp] theorem State.answerError_cdf (s : State) : (s.answerError).cdf = s.cdf := rfl
@[simp] theorem State.answerError_lut (s : State) : (s.answerError).lut = s.lut := rfl
@[simp] theorem State.answerError_hdr8 (s : State) : (s.answerError).hdr8 = s.hdr8 := rfl
@[simp] theorem State.answerError_fb (s : State) : (s.answerError).fb = s.fb := rfl
@[simp] theorem State.answerError_rb (s : State) : (s.answerError).rb = s.rb := rfl
@[simp] theorem State.answerError_powerEpoch (s : State) : (s.answerError).powerEpoch = s.powerEpoch := rfl
@[simp] theorem State.answerError_freeCount (s : State) : (s.answerError).freeCount = s.freeCount := rfl
@[simp] theorem State.answerError_agenda (s : State) : (s.answerError).agenda = s.agenda := rfl
@[simp] theorem State.answerError_busOut (s : State) : (s.answerError).busOut = some .error := rfl

/-! ## `State.applyReset`: every field of the reset state but the model's own counters and agenda (R50, R230) -/

@[simp] theorem State.applyReset_ir (s : State) : s.applyReset.ir = State.reset.ir := rfl
@[simp] theorem State.applyReset_status (s : State) : s.applyReset.status = State.reset.status := rfl
@[simp] theorem State.applyReset_result (s : State) : s.applyReset.result = State.reset.result := rfl
@[simp] theorem State.applyReset_irqen (s : State) : s.applyReset.irqen = State.reset.irqen := rfl
@[simp] theorem State.applyReset_width (s : State) : s.applyReset.width = State.reset.width := rfl
@[simp] theorem State.applyReset_height (s : State) : s.applyReset.height = State.reset.height := rfl
@[simp] theorem State.applyReset_channels (s : State) : s.applyReset.channels = State.reset.channels := rfl
@[simp] theorem State.applyReset_flen (s : State) : s.applyReset.flen = State.reset.flen := rfl
@[simp] theorem State.applyReset_argw (s : State) : s.applyReset.argw = State.reset.argw := rfl
@[simp] theorem State.applyReset_argh (s : State) : s.applyReset.argh = State.reset.argh := rfl
@[simp] theorem State.applyReset_argch (s : State) : s.applyReset.argch = State.reset.argch := rfl
@[simp] theorem State.applyReset_krows (s : State) : s.applyReset.krows = State.reset.krows := rfl
@[simp] theorem State.applyReset_kcols (s : State) : s.applyReset.kcols = State.reset.kcols := rfl
@[simp] theorem State.applyReset_kdiv (s : State) : s.applyReset.kdiv = State.reset.kdiv := rfl
@[simp] theorem State.applyReset_pixoff (s : State) : s.applyReset.pixoff = State.reset.pixoff := rfl
@[simp] theorem State.applyReset_datasize (s : State) : s.applyReset.datasize = State.reset.datasize := rfl
@[simp] theorem State.applyReset_kcoef (s : State) : s.applyReset.kcoef = State.reset.kcoef := rfl
@[simp] theorem State.applyReset_hist (s : State) : s.applyReset.hist = State.reset.hist := rfl
@[simp] theorem State.applyReset_cdf (s : State) : s.applyReset.cdf = State.reset.cdf := rfl
@[simp] theorem State.applyReset_lut (s : State) : s.applyReset.lut = State.reset.lut := rfl
@[simp] theorem State.applyReset_hdr8 (s : State) : s.applyReset.hdr8 = State.reset.hdr8 := rfl
@[simp] theorem State.applyReset_fb (s : State) : s.applyReset.fb = State.reset.fb := rfl
@[simp] theorem State.applyReset_rb (s : State) : s.applyReset.rb = State.reset.rb := rfl
@[simp] theorem State.applyReset_powerEpoch (s : State) : s.applyReset.powerEpoch = s.powerEpoch + 1 := rfl
@[simp] theorem State.applyReset_freeCount (s : State) : s.applyReset.freeCount = s.freeCount := rfl
@[simp] theorem State.applyReset_agenda (s : State) : s.applyReset.agenda = s.agenda := rfl
@[simp] theorem State.applyReset_busOut (s : State) : s.applyReset.busOut = State.reset.busOut := rfl

/-! ## The flags after a completion and after a host write of STATUS -/

@[simp] theorem Status.completed_busy (r : ResultCode) (t : Status) : (t.completed r).busy = false := rfl
@[simp] theorem Status.completed_done (r : ResultCode) (t : Status) : (t.completed r).done = true := rfl
@[simp] theorem Status.completed_errf (r : ResultCode) (t : Status) : (t.completed r).errf = (t.errf || r != .ok) := rfl
@[simp] theorem Status.completed_hzd (r : ResultCode) (t : Status) : (t.completed r).hzd = t.hzd := rfl
@[simp] theorem Status.completed_bufvalid (r : ResultCode) (t : Status) : (t.completed r).bufvalid = t.bufvalid := rfl
@[simp] theorem Status.completed_hdrvalid (r : ResultCode) (t : Status) : (t.completed r).hdrvalid = t.hdrvalid := rfl

@[simp] theorem Status.clearedBy_busy (w : Word) (t : Status) : (t.clearedBy w).busy = t.busy := rfl
@[simp] theorem Status.clearedBy_done (w : Word) (t : Status) : (t.clearedBy w).done = (t.done && !w.getLsbD 1) := rfl
@[simp] theorem Status.clearedBy_errf (w : Word) (t : Status) : (t.clearedBy w).errf = (t.errf && !w.getLsbD 2) := rfl
@[simp] theorem Status.clearedBy_hzd (w : Word) (t : Status) : (t.clearedBy w).hzd = (t.hzd && !w.getLsbD 3) := rfl
@[simp] theorem Status.clearedBy_bufvalid (w : Word) (t : Status) : (t.clearedBy w).bufvalid = t.bufvalid := rfl
@[simp] theorem Status.clearedBy_hdrvalid (w : Word) (t : Status) : (t.clearedBy w).hdrvalid = t.hdrvalid := rfl

end Sys2Proof.Machine
end

