-- ==== Sys2Proof/Laws/Bus.lean ====
section
/-! SUPPORT. What the address map and the bus accesses can do: which addresses reach what, and what an access makes of the
state in each case. -/

namespace Sys2Proof.Machine

/-! ## The address map -/

@[simp] theorem inWindow_iff (base size a n : Nat) : inWindow base size a n = true ↔ base ≤ a ∧ a + n ≤ base + size := by
  simp [inWindow]

theorem AccessSize.bytes_pos (n : AccessSize) : 0 < n.bytes := by cases n <;> decide

/-- Every word of the REG window is a register. -/
theorem regAt_isSome {e : Nat} (h : e < 20) : ∃ r, regAt e = some r := by
  interval_cases e <;> exact ⟨_, rfl⟩

theorem byteTarget_eq_none_iff (a n : Nat) : byteTarget a n = none ↔
    ¬ ((0xC00 ≤ a ∧ a + n ≤ 0xD00) ∨ (0x5000 ≤ a ∧ a + n ≤ 0x5436) ∨ (0x10000000 ≤ a ∧ a + n ≤ 0x11000000) ∨
      (0x20000000 ≤ a ∧ a + n ≤ 0x21000000)) := by
  unfold byteTarget
  simp only
  split_ifs with h1 h2 h3 h4 <;>
    simp only [inWindow_iff, ByteWindow.base, ByteWindow.size, Config.fileCap, Config.rasterCap] at * <;>
    simp only [false_iff, true_iff] <;> omega

theorem wordTarget_eq_none_iff (a : Nat) : wordTarget a = none ↔
    ¬ (a + 4 ≤ 0x50 ∨ (0x400 ≤ a ∧ a + 4 ≤ 0x800) ∨ (0x800 ≤ a ∧ a + 4 ≤ 0xC00) ∨ (0x1000 ≤ a ∧ a + 4 ≤ 0x10C4)) := by
  unfold wordTarget
  split_ifs with h1 h2 h3 h4 <;> simp only [inWindow_iff, Config.kmax] at *
  · obtain ⟨r, hr⟩ := regAt_isSome (e := a / 4) (by omega)
    rw [hr]
    simp only [Option.map_some, reduceCtorEq, false_iff]
    omega
  all_goals
    simp only [false_iff, true_iff]
    omega

/-- An access error is a misaligned access or one that no window takes whole (R67, R69). -/
theorem locate_eq_none_iff (addr : Word) (n : AccessSize) : locate addr n = none ↔
    addr.toNat % n.bytes ≠ 0 ∨ (byteTarget addr.toNat n.bytes = none ∧ (n = .word → wordTarget addr.toNat = none)) := by
  unfold locate
  simp only
  split
  · simp [*]
  · rename_i h0
    rw [not_not] at h0
    cases hb : byteTarget addr.toNat n.bytes
    · cases n <;> simp [h0]
    · simp [h0]

/-- An access that reaches a window reaches it through the byte map or, as an aligned word, through the word map. -/
theorem locate_eq_some {addr : Word} {n : AccessSize} {t : Target} (h : locate addr n = some t) :
    addr.toNat % n.bytes = 0 ∧ (byteTarget addr.toNat n.bytes = some t ∨ (n = .word ∧ wordTarget addr.toNat = some t)) := by
  unfold locate at h
  simp only at h
  split at h
  · cases h
  · rename_i h0
    refine ⟨not_not.1 h0, ?_⟩
    split at h
    · rename_i hb
      exact .inl (hb.trans h)
    · split at h
      · exact .inr ⟨‹_›, h⟩
      · cases h

/-- What the byte map answers is bytes, wholly inside their window. -/
theorem byteTarget_eq_some {a n : Nat} {t : Target} (h : byteTarget a n = some t) :
    ∃ win k, t = .bytes win k ∧ a = win.base + k ∧ k + n ≤ win.size := by
  unfold byteTarget at h
  simp only at h
  split_ifs at h with h1 h2 h3 h4
  · rw [inWindow_iff] at h1
    cases h
    exact ⟨_, _, rfl, by omega, by omega⟩
  · rw [inWindow_iff] at h2
    cases h
    exact ⟨_, _, rfl, by omega, by omega⟩
  · rw [inWindow_iff] at h3
    cases h
    exact ⟨_, _, rfl, by omega, by omega⟩
  · rw [inWindow_iff] at h4
    cases h
    exact ⟨_, _, rfl, by omega, by omega⟩

/-- What the word map answers, and from which addresses. -/
theorem wordTarget_eq_some {a : Nat} {t : Target} (h : wordTarget a = some t) :
    (∃ r, t = .reg r ∧ regAt (a / 4) = some r ∧ a + 4 ≤ 0x50) ∨
    (t = .hist ((a - 0x400) / 4) ∧ 0x400 ≤ a ∧ a + 4 ≤ 0x800) ∨
    (t = .cdf ((a - 0x800) / 4) ∧ 0x800 ≤ a ∧ a + 4 ≤ 0xC00) ∨
    (t = .kcoef ((a - 0x1000) / 4) ∧ 0x1000 ≤ a ∧ a + 4 ≤ 0x10C4) := by
  unfold wordTarget at h
  by_cases h1 : inWindow 0x0000 0x50 a 4 = true
  · rw [if_pos h1, Option.map_eq_some_iff] at h
    obtain ⟨r, hr, rfl⟩ := h
    rw [inWindow_iff] at h1
    exact .inl ⟨r, rfl, hr, by omega⟩
  · rw [if_neg h1] at h
    split_ifs at h with h2 h3 h4
    · rw [inWindow_iff] at h2
      cases h
      exact .inr (.inl ⟨rfl, by omega, by omega⟩)
    · rw [inWindow_iff] at h3
      cases h
      exact .inr (.inr (.inl ⟨rfl, by omega, by omega⟩))
    · rw [inWindow_iff] at h4
      simp only [Config.kmax] at h4
      cases h
      exact .inr (.inr (.inr ⟨rfl, by omega, by omega⟩))

/-- A naturally aligned access inside a byte window reaches its bytes there. -/
theorem locate_bytes {win : ByteWindow} {k : Nat} {n : AccessSize} (hk : k % n.bytes = 0)
    (hs : k + n.bytes ≤ win.size) : locate (BitVec.ofNat 32 (win.base + k)) n = some (.bytes win k) := by
  have hb := n.bytes_pos
  have base : win.base % 4 = 0 ∧ win.base + win.size < 2 ^ 32 := by cases win <;> decide
  have e : (BitVec.ofNat 32 (win.base + k)).toNat = win.base + k := by
    rw [BitVec.toNat_ofNat]
    omega
  have hm : (win.base + k) % n.bytes = 0 := by
    cases n <;> simp only [AccessSize.bytes] at * <;> omega
  have ht : byteTarget (win.base + k) n.bytes = some (.bytes win k) := by
    unfold byteTarget
    simp only
    have skip : ∀ v : ByteWindow, v.base + v.size ≤ win.base → ¬ inWindow v.base v.size (win.base + k) n.bytes = true := by
      intro v hv
      rw [inWindow_iff]
      omega
    have hit : inWindow win.base win.size (win.base + k) n.bytes = true := by
      rw [inWindow_iff]
      omega
    cases win
    · rw [if_pos hit, Nat.add_sub_cancel_left]
    · rw [if_neg (skip .lut (by decide)), if_pos hit, Nat.add_sub_cancel_left]
    · rw [if_neg (skip .lut (by decide)), if_neg (skip .hdr8 (by decide)), if_pos hit, Nat.add_sub_cancel_left]
    · rw [if_neg (skip .lut (by decide)), if_neg (skip .hdr8 (by decide)), if_neg (skip .fbuf (by decide)), if_pos hit,
        Nat.add_sub_cancel_left]
  unfold locate
  simp only [e]
  rw [if_neg (by omega), ht]

/-- An aligned word of a word window, which no byte window holds, reaches what the word map says. -/
theorem locate_word {a : Nat} (ha : a < 2 ^ 32) (h4 : a % 4 = 0)
    (hb : a + 4 ≤ 0xC00 ∨ (0xD00 ≤ a ∧ a + 4 ≤ 0x5000)) :
    locate (BitVec.ofNat 32 a) .word = wordTarget a := by
  have e : (BitVec.ofNat 32 a).toNat = a := by
    rw [BitVec.toNat_ofNat]
    omega
  have hn : byteTarget a AccessSize.word.bytes = none := by
    rw [byteTarget_eq_none_iff]
    simp only [AccessSize.bytes]
    omega
  unfold locate
  simp only [e]
  rw [if_neg (by simp only [AccessSize.bytes]; omega), hn]
  simp

/-- Entry `i` of HIST is word `i` of its window (R61). -/
theorem locate_hist {i : Nat} (h : i < 256) : locate (BitVec.ofNat 32 (0x400 + 4 * i)) .word = some (.hist i) := by
  rw [locate_word (by omega) (by omega) (by omega)]
  unfold wordTarget
  rw [if_neg (by rw [inWindow_iff]; omega), if_pos (by rw [inWindow_iff]; omega)]
  congr 2
  omega

/-- Entry `i` of CDF is word `i` of its window (R61). -/
theorem locate_cdf {i : Nat} (h : i < 256) : locate (BitVec.ofNat 32 (0x800 + 4 * i)) .word = some (.cdf i) := by
  rw [locate_word (by omega) (by omega) (by omega)]
  unfold wordTarget
  rw [if_neg (by rw [inWindow_iff]; omega), if_neg (by rw [inWindow_iff]; omega), if_pos (by rw [inWindow_iff]; omega)]
  congr 2
  omega

/-- Entry `e` of KCOEF is word `e` of its window (R61). -/
theorem locate_kcoef {e : Nat} (h : e < 49) : locate (BitVec.ofNat 32 (0x1000 + 4 * e)) .word = some (.kcoef e) := by
  rw [locate_word (by omega) (by omega) (by omega)]
  unfold wordTarget
  rw [if_neg (by rw [inWindow_iff]; omega), if_neg (by rw [inWindow_iff]; omega), if_neg (by rw [inWindow_iff]; omega),
    if_pos (by rw [inWindow_iff]; simp only [Config.kmax]; omega)]
  congr 2
  omega

/-! ## What an access makes of the state -/

theorem busRead_of_error {s : State} {addr : Word} {n : AccessSize} (h : locate addr n = none) :
    s.busRead addr n = s.answerError := by simp [State.busRead, h]

theorem busWrite_of_error {s : State} {addr v : Word} {n : AccessSize} (h : locate addr n = none) :
    s.busWrite addr n v = s.answerError := by simp [State.busWrite, h]

theorem busRead_of_violation {s : State} {addr : Word} {n : AccessSize} {t : Target} (h : locate addr n = some t)
    (hb : s.status.busy = true) (ho : t.openToRead = false) :
    s.busRead addr n = s.violate.answerRead (s.violatingRead n) := by simp [State.busRead, h, hb, ho]

theorem busWrite_of_violation {s : State} {addr v : Word} {n : AccessSize} {t : Target} (h : locate addr n = some t)
    (hb : s.status.busy = true) (ho : t.openToWrite = false) :
    s.busWrite addr n v = s.violate.answerWrite := by simp [State.busWrite, h, hb, ho]

theorem busRead_of_idle {s : State} {addr : Word} {n : AccessSize} {t : Target} (h : locate addr n = some t)
    (hb : s.status.busy = false) : s.busRead addr n = s.answerRead (s.readTarget t n) := by
  simp [State.busRead, h, hb]

theorem busWrite_of_idle {s : State} {addr v : Word} {n : AccessSize} {t : Target} (h : locate addr n = some t)
    (hb : s.status.busy = false) : s.busWrite addr n v = (s.writeTarget t n v).answerWrite := by
  simp [State.busWrite, h, hb]

theorem busRead_of_open {s : State} {addr : Word} {n : AccessSize} {t : Target} (h : locate addr n = some t)
    (ho : t.openToRead = true) : s.busRead addr n = s.answerRead (s.readTarget t n) := by
  simp [State.busRead, h, ho]

theorem busWrite_of_open {s : State} {addr v : Word} {n : AccessSize} {t : Target} (h : locate addr n = some t)
    (ho : t.openToWrite = true) : s.busWrite addr n v = (s.writeTarget t n v).answerWrite := by
  simp [State.busWrite, h, ho]

/-- Byte `j` of the bytes of a number. -/
theorem leBytes_getElem? {n v j : Nat} (h : j < n) : (leBytes n v)[j]? = some (BitVec.ofNat 8 (v / 256 ^ j)) := by
  induction n generalizing v j with
  | zero => omega
  | succ n ih =>
    cases j with
    | zero => simp [leBytes]
    | succ j =>
      simp only [leBytes, List.getElem?_cons_succ]
      rw [ih (by omega), Nat.div_div_eq_div_mul, Nat.pow_succ, Nat.mul_comm]

end Sys2Proof.Machine
end

