-- ==== Sys2Proof/Laws/Ops.lean ====
section
/-! SUPPORT. What each shared operation can do, said once: the guards, the arithmetic, the byte order, and the building
and storing of a raster. -/

namespace Sys2Proof.Machine

/-! ## Completion and the guards -/

@[simp] theorem State.fail_eq (s : State) (r : ResultCode) : s.fail r = .next (s.complete r) := rfl

@[simp] theorem State.succeed_eq (s : State) : s.succeed = .next (s.complete .ok) := rfl

theorem State.needBuffer_of_loaded {s : State} (h : s.status.bufvalid = true)
    (b : Host.Outcome State Fault Refusal) : s.needBuffer b = b := by simp [State.needBuffer, h]

theorem State.needBuffer_of_empty {s : State} (h : s.status.bufvalid = false)
    (b : Host.Outcome State Fault Refusal) : s.needBuffer b = .next (s.complete .emptyBuffer) := by
  simp [State.needBuffer, h]

/-- Everything a command that needs a buffer can answer. -/
theorem State.needBuffer_eq_next {s t : State} {b : Host.Outcome State Fault Refusal} (h : s.needBuffer b = .next t) :
    (s.status.bufvalid = true ∧ b = .next t) ∨ (s.status.bufvalid = false ∧ t = s.complete .emptyBuffer) := by
  cases hb : s.status.bufvalid
  · rw [State.needBuffer_of_empty hb] at h
    exact .inr ⟨rfl, by cases h; rfl⟩
  · rw [State.needBuffer_of_loaded hb] at h
    exact .inl ⟨rfl, h⟩

theorem State.needChannels_of_eq {s : State} {n : Nat} (h : s.ch = n) (b : Host.Outcome State Fault Refusal) :
    s.needChannels n b = b := by simp [State.needChannels, h]

theorem State.needChannels_of_ne {s : State} {n : Nat} (h : s.ch ≠ n) (b : Host.Outcome State Fault Refusal) :
    s.needChannels n b = .next (s.complete .shapeMismatch) := by simp [State.needChannels, h]

/-- Everything a command bound to one channel count can answer. -/
theorem State.needChannels_eq_next {s t : State} {n : Nat} {b : Host.Outcome State Fault Refusal}
    (h : s.needChannels n b = .next t) :
    (s.ch = n ∧ b = .next t) ∨ (s.ch ≠ n ∧ t = s.complete .shapeMismatch) := by
  by_cases hc : s.ch = n
  · rw [State.needChannels_of_eq hc] at h
    exact .inl ⟨hc, h⟩
  · rw [State.needChannels_of_ne hc] at h
    exact .inr ⟨hc, by cases h; rfl⟩

/-! ## Numbers -/

theorem clamp_mem (v : Int) {lo hi : Int} (h : lo ≤ hi) : lo ≤ clamp v lo hi ∧ clamp v lo hi ≤ hi := by
  unfold clamp
  split
  · omega
  · split <;> omega

/-- The sample that a whole number becomes, as a number. -/
theorem clampByte_toNat (v : Int) : ((clampByte v).toNat : Int) = clamp v 0 255 := by
  have h := clamp_mem v (show (0 : Int) ≤ 255 by omega)
  unfold clampByte
  rw [BitVec.toNat_ofInt]
  omega

/-- `round` of R7 as this engine is configured. -/
theorem round_def (num : Int) (den : Nat) : round num den =
    if 0 ≤ num then (2 * num + den) / (2 * den) else -((-2 * num + den) / (2 * den)) := rfl

theorem round_of_nonneg {num : Int} (h : 0 ≤ num) (den : Nat) : round num den = (2 * num + den) / (2 * den) := by
  rw [round_def, if_pos h]

@[simp] theorem leBytes_length (n v : Nat) : (leBytes n v).length = n := by
  induction n generalizing v with
  | zero => rfl
  | succ n ih => simp [leBytes, ih]

/-- Reading back the bytes of a number gives its low bits. -/
theorem leNat_leBytes (n v : Nat) : leNat (leBytes n v) = v % 256 ^ n := by
  induction n generalizing v with
  | zero => simp [leBytes, leNat, Nat.mod_one]
  | succ n ih =>
    rw [leBytes, leNat, ih, BitVec.toNat_ofNat, show 2 ^ 8 = 256 from rfl, Nat.pow_succ', Nat.mod_mul (a := 256)]

theorem leNat_lt (bs : List Byte) : leNat bs < 256 ^ bs.length := by
  induction bs with
  | nil => simp [leNat]
  | cons b bs ih =>
    have := b.isLt
    rw [leNat, List.length_cons, Nat.pow_succ']
    omega

/-- The number that bytes spell is the sum of the bytes times their places (R68). -/
theorem leNat_eq_sum (n : Nat) (f : Nat → Byte) :
    leNat ((List.range n).map f) = ∑ j ∈ Finset.range n, (f j).toNat * 256 ^ j := by
  induction n generalizing f with
  | zero => rfl
  | succ n ih =>
    rw [List.range_succ_eq_map, List.map_cons, List.map_map, leNat, ih, Finset.sum_range_succ', Finset.mul_sum]
    simp only [Function.comp, Nat.succ_eq_add_one, Nat.pow_succ, Nat.pow_zero, Nat.mul_one]
    rw [Nat.add_comm]
    congr 1
    exact Finset.sum_congr rfl fun j _ => by ring

/-- Byte `j` of the number that bytes spell is byte `j`. -/
theorem leNat_byte {l : List Byte} {j : Nat} (h : j < l.length) : BitVec.ofNat 8 (leNat l / 256 ^ j) = l[j] := by
  induction l generalizing j with
  | nil => simp at h
  | cons b l ih =>
    have hb := b.isLt
    cases j with
    | zero =>
      apply BitVec.eq_of_toNat_eq
      simp only [leNat, BitVec.toNat_ofNat, Nat.pow_zero, Nat.div_one, List.getElem_cons_zero]
      omega
    | succ j =>
      simp only [List.length_cons] at h
      rw [List.getElem_cons_succ, ← ih (by omega), leNat, Nat.pow_succ, Nat.mul_comm (256 ^ j), ← Nat.div_div_eq_div_mul]
      congr 2
      omega

/-! ## Rasters -/

@[simp] theorem buildRaster_length (w h ch : Nat) (f : Nat → Nat → Nat → Byte) :
    (buildRaster w h ch f).length = w * h * ch := by simp [buildRaster]

/-- The index of sample (x, y, c) lies in the image (R74). -/
theorem rasterIndex_lt {w h ch x y c : Nat} (hx : x < w) (hy : y < h) (hc : c < ch) :
    (y * w + x) * ch + c < w * h * ch := by
  have h1 : y * w + x < h * w := by
    calc y * w + x < y * w + w := by omega
      _ = (y + 1) * w := by ring
      _ ≤ h * w := Nat.mul_le_mul_right w hy
  calc (y * w + x) * ch + c < (y * w + x) * ch + ch := by omega
    _ = (y * w + x + 1) * ch := by ring
    _ ≤ (h * w) * ch := Nat.mul_le_mul_right ch h1
    _ = w * h * ch := by ring

/-- The coordinates of an index (R74). -/
theorem rasterIndex_coords {w ch x y c : Nat} (hx : x < w) (hc : c < ch) :
    ((y * w + x) * ch + c) / ch % w = x ∧ ((y * w + x) * ch + c) / ch / w = y ∧ ((y * w + x) * ch + c) % ch = c := by
  have e : ((y * w + x) * ch + c) / ch = y * w + x := by
    rw [Nat.add_comm, Nat.add_mul_div_right _ _ (by omega), Nat.div_eq_of_lt hc, Nat.zero_add]
  rw [e]
  refine ⟨?_, ?_, ?_⟩
  · rw [Nat.add_comm, Nat.add_mul_mod_self_right, Nat.mod_eq_of_lt hx]
  · rw [Nat.add_comm, Nat.add_mul_div_right _ _ (by omega), Nat.div_eq_of_lt hx, Nat.zero_add]
  · rw [Nat.add_comm, Nat.add_mul_mod_self_right, Nat.mod_eq_of_lt hc]

/-- Every index of an image has coordinates in it. -/
theorem rasterIndex_split {w h ch k : Nat} (hk : k < w * h * ch) :
    k / ch % w < w ∧ k / ch / w < h ∧ k % ch < ch ∧ (k / ch / w * w + k / ch % w) * ch + k % ch = k := by
  have hch : 0 < ch := Nat.pos_of_ne_zero (by rintro rfl; simp at hk)
  have hw : 0 < w := Nat.pos_of_ne_zero (by rintro rfl; simp at hk)
  refine ⟨Nat.mod_lt _ hw, ?_, Nat.mod_lt _ hch, ?_⟩
  · rw [Nat.div_lt_iff_lt_mul hw, Nat.div_lt_iff_lt_mul hch]
    calc k < w * h * ch := hk
      _ = h * w * ch := by ring
  · rw [Nat.div_add_mod' (k / ch) w, Nat.div_add_mod' k ch]

/-- A built raster holds `f x y c` at the index of (x, y, c). -/
theorem buildRaster_getElem {w h ch : Nat} {f : Nat → Nat → Nat → Byte} {x y c : Nat} (hx : x < w) (hy : y < h)
    (hc : c < ch) : (buildRaster w h ch f)[(y * w + x) * ch + c]? = some (f x y c) := by
  obtain ⟨e1, e2, e3⟩ := rasterIndex_coords (y := y) hx hc
  simp only [buildRaster, List.getElem?_map]
  rw [List.getElem?_range (rasterIndex_lt hx hy hc)]
  simp only [Option.map_some, e1, e2, e3]

/-- The samples after a raster is stored: the new ones, and beyond them what was there. -/
theorem State.sample_write (s : State) (vs : List Byte) (t : State) (hrb : t.rb = s.rb.write 0 vs)
    (he : t.powerEpoch = s.powerEpoch) (k : Nat) :
    t.sample k = if h : k < vs.length then vs[k] else s.sample k := by
  unfold State.sample
  rw [hrb, he, Memory.item_write]
  by_cases h : k < vs.length <;> simp [h]

/-- The file bytes after bytes are stored from index 0 on. -/
theorem State.fileByte_write (s : State) (vs : List Byte) (t : State) (hfb : t.fb = s.fb.write 0 vs)
    (he : t.powerEpoch = s.powerEpoch) (k : Nat) :
    t.fileByte k = if h : k < vs.length then vs[k] else s.fileByte k := by
  unfold State.fileByte
  rw [hfb, he, Memory.item_write]
  by_cases h : k < vs.length <;> simp [h]

end Sys2Proof.Machine
end

