-- ==== Sys2Proof/Laws/Codec.lean ====
section
/-! SUPPORT. What the file reads, the decoder's steps and the encoder's bytes are, said once. -/

namespace Sys2Proof.Machine

/-! ## Fields (R72) -/

/-- A field is read from the bytes it covers only. -/
theorem fileField_congr {s : State} {f : Nat → Byte} {off n : Nat}
    (h : ∀ k, off ≤ k → k < off + n → s.fileByte k = f k) :
    s.fileField off n = leNat ((List.range n).map fun k => f (off + k)) := by
  unfold State.fileField State.fileBytesAt
  congr 1
  apply List.map_congr_left
  intro k hk
  rw [List.mem_range] at hk
  exact h _ (by omega) (by omega)

theorem fileField_lt (s : State) (off n : Nat) : s.fileField off n < 256 ^ n := by
  have := leNat_lt (s.fileBytesAt off n)
  simpa [State.fileField, State.fileBytesAt] using this

theorem fileRead_of_le {s : State} {off n : Nat} (h : off + n ≤ s.fileLen) : s.fileRead off n = .ok (s.fileField off n) := by
  rw [State.fileRead, if_neg (by omega)]

/-- The signature field is "BM" exactly when its two bytes are `B` and `M` (R113). -/
theorem signature_iff (s : State) : s.fileField 0 2 = 0x4D42 ↔ s.fileByte 0 = 0x42#8 ∧ s.fileByte 1 = 0x4D#8 := by
  have e : s.fileField 0 2 = (s.fileByte 0).toNat + 256 * (s.fileByte 1).toNat := by
    simp [State.fileField, State.fileBytesAt, List.range_succ, leNat]
  rw [e]
  have h0 := (s.fileByte 0).isLt
  have h1 := (s.fileByte 1).isLt
  constructor
  · intro h
    constructor <;> apply BitVec.eq_of_toNat_eq <;> simp <;> omega
  · rintro ⟨a, b⟩
    rw [a, b]
    rfl

/-- A positive signed field is its unsigned value. -/
theorem sext32_of_pos {v : Nat} (hv : v < 2 ^ 32) (h : 0 < sext32 v) : (sext32 v).toNat = v ∧ v < 2 ^ 31 := by
  unfold sext32 at *
  have := BitVec.toInt_eq_toNat_cond (BitVec.ofNat 32 v)
  rw [BitVec.toNat_ofNat, Nat.mod_eq_of_lt hv] at this
  split at this <;> omega

theorem formatSupported_iff (depth comp : Nat) : formatSupported depth comp = true ↔ (depth = 8 ∨ depth = 24) ∧ comp = 0 := by
  simp [formatSupported]

@[simp] theorem pixoffAccepted_eq (depth pixoff : Nat) : pixoffAccepted depth pixoff = true := rfl

/-! ## The decoder (R112) -/

/-- With the whole header there and its signature and format accepted, DECODE goes on to the sizes. -/
theorem decodeFile_of_header {s : State} (long : 54 ≤ s.fileLen) (sig : s.fileField 0 2 = 0x4D42)
    (fmt : formatSupported (s.fileField 28 2) (s.fileField 30 4) = true) :
    decodeFile s = decodeSized s (s.fileField 28 2) (sext32 (s.fileField 18 4)) (sext32 (s.fileField 22 4)) := by
  unfold decodeFile
  rw [fileRead_of_le (by omega)]
  simp only
  rw [if_neg (by simp [sig]), if_neg (by omega), if_neg (by simp [fmt])]

/-- With sizes that are positive and fit, DECODE goes on to the rows. -/
theorem decodeSized_of_fit {s : State} {depth w h : Nat} (hw : 0 < w) (hh : 0 < h)
    (fits : w * h * depthChannels depth ≤ Config.rasterCap) :
    decodeSized s depth w h = if depth = 8 then decode8 s w h else decode24 s w h := by
  unfold decodeSized
  rw [if_neg (by omega), if_neg (by simp; omega), if_neg (by simp)]
  simp

/-- Everything a decoded file is: its fields are those of the header, the shape is positive and fits, and there is a
sample for each place. -/
theorem decodeFile_ok {s : State} {f : DecodedFile} (h : decodeFile s = .ok f) :
    s.fileField 0 2 = 0x4D42 ∧ 54 ≤ s.fileLen ∧ s.fileField 30 4 = 0 ∧ f.width = s.fileField 18 4 ∧
    f.height = s.fileField 22 4 ∧ 1 ≤ f.width ∧ 1 ≤ f.height ∧ f.width * f.height * f.channels ≤ Config.rasterCap ∧
    f.samples.length = f.width * f.height * f.channels ∧
    ((f.channels = 1 ∧ s.fileField 28 2 = 8 ∧ f.header = some (s.fileBytesAt 0 1078) ∧ 1078 ≤ s.fileLen) ∨
      (f.channels = 3 ∧ s.fileField 28 2 ≠ 8 ∧ f.header = none)) := by
  unfold decodeFile at h
  split at h
  · cases h
  rename_i sig hsig
  split_ifs at h with c1 c2 c3
  have hsig' : sig = s.fileField 0 2 := by
    unfold State.fileRead at hsig
    split at hsig <;> cases hsig
    rfl
  unfold decodeSized at h
  split_ifs at h with d1 d2 d3 d4
  all_goals
    have comp := ((formatSupported_iff _ _).1 (Bool.eq_true_of_not_eq_false c3)).2
    have w1 := sext32_of_pos (fileField_lt s 18 4) (by omega)
    have h1 := sext32_of_pos (fileField_lt s 22 4) (by omega)
    rw [w1.1, h1.1] at h d2
  · unfold decode8 at h
    simp only at h
    split_ifs at h
    cases h
    refine ⟨by rw [← hsig']; exact not_not.1 c1, by omega, comp, rfl, rfl, ?_, ?_, ?_, by simp [raster8],
      .inl ⟨rfl, d4, rfl, by omega⟩⟩
    · show 1 ≤ s.fileField 18 4
      omega
    · show 1 ≤ s.fileField 22 4
      omega
    · simp only [depthChannels, d4] at d2
      simpa using d2
  · unfold decode24 at h
    simp only at h
    split_ifs at h
    cases h
    refine ⟨by rw [← hsig']; exact not_not.1 c1, by omega, comp, rfl, rfl, ?_, ?_, ?_, by simp [raster24],
      .inr ⟨rfl, d4, rfl⟩⟩
    · show 1 ≤ s.fileField 18 4
      omega
    · show 1 ≤ s.fileField 22 4
      omega
    · simp only [depthChannels, d4] at d2
      simpa using d2

/-! ## The encoder (R123) -/

@[simp] theorem bmpHeader_length (a b c d e f : Nat) : (bmpHeader a b c d e f).length = 54 := rfl

@[simp] theorem header8_length (s : State) : (header8 s).length = 1078 := by
  unfold header8
  split <;> simp [identityColourTable]

@[simp] theorem header24_length (s : State) : (header24 s).length = 54 := rfl

/-- The file that ENCODE writes has the length of R123. -/
@[simp] theorem encodedFile_length (s : State) : (encodedFile s).length = encodedLength s := by
  unfold encodedFile encodedLength
  split <;> simp [pixels24, pixels8]

/-- The row and the place in it of a pixel byte. -/
theorem row_split {st r j : Nat} (h : j < st) : (r * st + j) / st = r ∧ (r * st + j) % st = j := by
  constructor
  · rw [Nat.add_comm, Nat.add_mul_div_right _ _ (by omega), Nat.div_eq_of_lt h, Nat.zero_add]
  · rw [Nat.add_comm, Nat.add_mul_mod_self_right, Nat.mod_eq_of_lt h]

theorem row_lt {st h r j : Nat} (hr : r < h) (hj : j < st) : r * st + j < st * h := by
  calc r * st + j < r * st + st := by omega
    _ = st * (r + 1) := by ring
    _ ≤ st * h := Nat.mul_le_mul_left _ hr

/-- Byte `j` of file row `r` of an 8-bit file (R128). -/
theorem pixels8_getElem? {s : State} {r j : Nat} (hr : r < s.h) (hj : j < stride8 s.w) :
    (pixels8 s)[r * stride8 s.w + j]? = some (if j < s.w then s.pixelSample j (s.h - 1 - r) 0 else 0#8) := by
  obtain ⟨e1, e2⟩ := row_split (r := r) hj
  simp only [pixels8, List.getElem?_map, List.getElem?_range (row_lt hr hj), Option.map_some, e1, e2]

/-- Byte `j` of file row `r` of a 24-bit file (R129). -/
theorem pixels24_getElem? {s : State} {r j : Nat} (hr : r < s.h) (hj : j < stride24 s.w) :
    (pixels24 s)[r * stride24 s.w + j]? =
      some (if j < 3 * s.w then s.pixelSample (j / 3) (s.h - 1 - r) (2 - j % 3) else 0#8) := by
  obtain ⟨e1, e2⟩ := row_split (r := r) hj
  simp only [pixels24, List.getElem?_map, List.getElem?_range (row_lt hr hj), Option.map_some, e1, e2]

/-- The state that ENCODE's commit makes holds the file from byte 0 on (R127). -/
theorem fileByte_of_encoded {s t : State} (hfb : t.fb = s.fb.write 0 (encodedFile s)) (he : t.powerEpoch = s.powerEpoch)
    (k : Nat) :
    t.fileByte k = if h : k < (encodedFile s).length then (encodedFile s)[k] else s.fileByte k :=
  State.fileByte_write s _ t hfb he k

end Sys2Proof.Machine
end

