-- ==== Sys2Proof/Laws/Equalization.lean ====
section
/-! SUPPORT. What the histogram, the running sum and the remap tables hold, entry by entry. -/

namespace Sys2Proof.Machine

/-- `Ybin` in the integer form of R177; the clamp is never needed. -/
theorem lumaBin_eq {r g b : Nat} (hr : r ≤ 255) (hg : g ≤ 255) (hb : b ≤ 255) :
    lumaBin r g b = (2 * (299 * r + 587 * g + 114 * b) + 1000) / 2000 ∧ lumaBin r g b ≤ 255 := by
  unfold lumaBin
  rw [round_of_nonneg (by unfold lumaN; omega)]
  have e : (2 * lumaN r g b + ((1000 : Nat) : Int)) / (2 * ((1000 : Nat) : Int)) =
      (((2 * (299 * r + 587 * g + 114 * b) + 1000) / 2000 : Nat) : Int) := by
    unfold lumaN
    push_cast
    rfl
  rw [e]
  unfold clamp
  rw [if_neg (by omega), if_neg (by omega)]
  omega

/-- Every level that is counted is one of 0..255. -/
theorem levels_lt (s : State) : ∀ v ∈ s.levels, v < 256 := by
  unfold State.levels
  split
  · intro v hv
    obtain ⟨k, _, rfl⟩ := List.mem_map.1 hv
    exact (s.sample k).isLt
  · intro v hv
    obtain ⟨p, _, rfl⟩ := List.mem_map.1 hv
    have h1 := (s.sample (3 * p)).isLt
    have h2 := (s.sample (3 * p + 1)).isLt
    have h3 := (s.sample (3 * p + 2)).isLt
    have := (lumaBin_eq (r := (s.sample (3 * p)).toNat) (g := (s.sample (3 * p + 1)).toNat)
      (b := (s.sample (3 * p + 2)).toNat) (by omega) (by omega) (by omega)).2
    unfold State.pixelBin
    omega

@[simp] theorem histogram_length (levels : List Nat) : (histogram levels).length = 256 := by simp [histogram]

theorem histogram_getElem? (levels : List Nat) {v : Nat} (hv : v < 256) :
    (histogram levels)[v]? = some (levels.count v) := by
  unfold histogram
  rw [List.getElem?_map, List.getElem?_range hv]
  rfl

@[simp] theorem runningSum_length (acc : Nat) (l : List Nat) : (runningSum acc l).length = l.length := by
  induction l generalizing acc with
  | nil => rfl
  | cons a l ih => simp [runningSum, ih]

/-- Entry `i` of a running sum (R172). -/
theorem runningSum_getElem? (acc : Nat) (l : List Nat) {i : Nat} (h : i < l.length) :
    (runningSum acc l)[i]? = some (acc + ∑ j ∈ Finset.range (i + 1), l.getD j 0) := by
  induction l generalizing acc i with
  | nil => simp at h
  | cons a l ih =>
    cases i with
    | zero => simp [runningSum]
    | succ i =>
      simp only [runningSum, List.getElem?_cons_succ]
      rw [ih (acc + a) (by simpa using h), Finset.sum_range_succ' _ (i + 1)]
      simp
      omega

@[simp] theorem cdfOf_length (hist : List Nat) : (cdfOf hist).length = hist.length := runningSum_length 0 hist

/-- Entry `i` of the CDF of a histogram: how many levels are at most `i`. -/
theorem cdfOf_histogram_getElem? (levels : List Nat) {i : Nat} (hi : i < 256) :
    (cdfOf (histogram levels))[i]? = some (∑ j ∈ Finset.range (i + 1), levels.count j) := by
  unfold cdfOf
  rw [runningSum_getElem? _ _ (by simpa using hi), Nat.zero_add]
  congr 1
  apply Finset.sum_congr rfl
  intro j hj
  rw [Finset.mem_range] at hj
  rw [List.getD_eq_getElem?_getD, histogram_getElem? _ (by omega)]
  rfl

@[simp] theorem lut1_length (total : Nat) (cdf : List Nat) : (lut1 total cdf).length = cdf.length := by simp [lut1]

@[simp] theorem lut3_length (total : Nat) (cdf : List Nat) : (lut3 total cdf).length = cdf.length := by simp [lut3]

/-- The quotient of R174 and R178 in natural numbers: it is at most 255. -/
theorem remapQuotient_eq {total cmin c : Nat} (h1 : cmin ≤ c) (h2 : c ≤ total) (h3 : cmin < total) :
    (round (255 * ((c : Int) - cmin)) (total - cmin)).toNat =
      (510 * (c - cmin) + (total - cmin)) / (2 * (total - cmin)) ∧
    (510 * (c - cmin) + (total - cmin)) / (2 * (total - cmin)) ≤ 255 := by
  constructor
  · rw [round_of_nonneg (by omega)]
    have e : (2 * (255 * ((c : Int) - cmin)) + ((total - cmin : Nat) : Int)) / (2 * ((total - cmin : Nat) : Int)) =
        (((510 * (c - cmin) + (total - cmin)) / (2 * (total - cmin)) : Nat) : Int) := by
      push_cast
      congr 1
      rw [Nat.cast_sub h1]
      ring
    rw [e]
    rfl
  · apply Nat.le_of_lt_succ
    rw [Nat.div_lt_iff_lt_mul (by omega)]
    omega

/-- An entry of a table that has just been written from item 0 on. -/
theorem item_of_write {w : Nat} {m : Memory w} {vs : List (BitVec w)} {epoch base step a : Nat} {v : BitVec w}
    (h : vs[a]? = some v) : (m.write 0 vs).item epoch base step a = v := by
  obtain ⟨hl, he⟩ := List.getElem?_eq_some_iff.1 h
  rw [Memory.item_write, dif_pos (by omega)]
  simpa using he

end Sys2Proof.Machine
end

