-- ==== Sys2Proof/Laws/PerInstr.lean ====
section
/-! SUPPORT. Facts about every command as syntax, one lemma a constructor: the fields of its word. -/

namespace Sys2Proof.Laws

/-- Bit `i` of a word put together from its parts (R90). -/
theorem getLsbD_parts (imm : BitVec 16) (opc : BitVec 8) (i : Nat) :
    BitVec.getLsbD (w := 32) (imm ++ (0#8 ++ opc)) i =
      if i < 8 then opc.getLsbD i else if i < 16 then false else imm.getLsbD (i - 16) := by
  refine (BitVec.getLsbD_append (x := imm) (y := 0#8 ++ opc)).trans ?_
  rw [BitVec.getLsbD_append]
  by_cases h : i < 8
  · simp [h, show i < 16 by omega]
  · by_cases h' : i < 16 <;> simp [h, h']

/-- The three fields of a word put together from its parts (R90). -/
theorem fields_append (imm : BitVec 16) (opc : BitVec 8) :
    opcField (imm ++ (0#8 ++ opc)) = opc ∧ rsvField (imm ++ (0#8 ++ opc)) = 0#8 ∧ immField (imm ++ (0#8 ++ opc)) = imm := by
  refine ⟨?_, ?_, ?_⟩
  · apply BitVec.eq_of_getLsbD_eq
    intro i hi
    rw [opcField, BitVec.getLsbD_extractLsb', getLsbD_parts]
    simp [hi]
  · apply BitVec.eq_of_getLsbD_eq
    intro i hi
    rw [rsvField, BitVec.getLsbD_extractLsb', getLsbD_parts]
    simp [show 8 + i < 16 by omega]
  · apply BitVec.eq_of_getLsbD_eq
    intro i hi
    rw [immField, BitVec.getLsbD_extractLsb', getLsbD_parts, if_neg (by omega)]
    simp [hi]

/-- The word of a command holds its operation code, its immediate, and 0 in the reserved bits (R90, R92). -/
def EncodeFields.Statement (i : Instr) : Prop :=
  opcField (encode i) = i.opcode ∧ rsvField (encode i) = 0#8 ∧ immField (encode i) = i.immediate

theorem EncodeFields.nop : EncodeFields.Statement .nop := fields_append _ _
theorem EncodeFields.decode : EncodeFields.Statement .decode := fields_append _ _
theorem EncodeFields.encode : EncodeFields.Statement .encode := fields_append _ _
theorem EncodeFields.setshape : EncodeFields.Statement .setshape := fields_append _ _
theorem EncodeFields.release : EncodeFields.Statement .release := fields_append _ _
theorem EncodeFields.negative : EncodeFields.Statement .negative := fields_append _ _
theorem EncodeFields.grayscale : EncodeFields.Statement .grayscale := fields_append _ _
theorem EncodeFields.bright (delta : Int) : EncodeFields.Statement (.bright delta) := fields_append _ _
theorem EncodeFields.thresh (t : Int) : EncodeFields.Statement (.thresh t) := fields_append _ _
theorem EncodeFields.convolve : EncodeFields.Statement .convolve := fields_append _ _
theorem EncodeFields.boxblur : EncodeFields.Statement .boxblur := fields_append _ _
theorem EncodeFields.gauss : EncodeFields.Statement .gauss := fields_append _ _
theorem EncodeFields.outline : EncodeFields.Statement .outline := fields_append _ _
theorem EncodeFields.emboss : EncodeFields.Statement .emboss := fields_append _ _
theorem EncodeFields.sharpen : EncodeFields.Statement .sharpen := fields_append _ _
theorem EncodeFields.equalize : EncodeFields.Statement .equalize := fields_append _ _
theorem EncodeFields.histo : EncodeFields.Statement .histo := fields_append _ _

end Sys2Proof.Laws
end

