-- ==== Sys2Proof/Laws/Raster.lean ====
section
/-! SUPPORT. What the commands that only rewrite the raster do to it, said once for the shared operations they call, and
the sample that a rounded quotient becomes. -/

namespace Sys2Proof.Machine

/-- Storing samples changes no other field. -/
theorem storeRaster_frame (s : State) (vs : List Byte) :
    s.storeRaster vs = { s with rb := (s.storeRaster vs).rb } := rfl

theorem sample_storeRaster (s : State) (vs : List Byte) (r : ResultCode) (k : Nat) :
    ((s.storeRaster vs).complete r).sample k = if h : k < vs.length then vs[k] else s.sample k :=
  State.sample_write s vs ((s.storeRaster vs).complete r) rfl rfl k

/-- `mapRaster` always completes; sample `k` of the image becomes `f k` and no other sample changes. -/
theorem mapRaster_eq (s : State) (f : Nat → Byte) :
    ∃ t, s.mapRaster f = .next t ∧ t = State.complete .ok { s with rb := t.rb } ∧
      ∀ k, t.sample k = if k < s.nSamples then f k else s.sample k := by
  refine ⟨_, rfl, rfl, fun k => ?_⟩
  refine (sample_storeRaster s ((List.range s.nSamples).map f) .ok k).trans ?_
  simp

/-- `convolveWith` always completes; every sample of the image becomes its `convSample` and no other sample changes. -/
theorem convolveWith_eq (s : State) (side : Nat) (num : Nat → Int) (den : Nat) :
    ∃ t, s.convolveWith side num den = .next t ∧ t = State.complete .ok { s with rb := t.rb } ∧
      (∀ x < s.w, ∀ y < s.h, ∀ c < s.ch,
        t.sample ((y * s.w + x) * s.ch + c) = convSample s side num den x y c) ∧
      ∀ k, s.w * s.h * s.ch ≤ k → t.sample k = s.sample k := by
  refine ⟨_, rfl, rfl, fun x hx y hy c hc => ?_, fun k hk => ?_⟩
  · have hl := rasterIndex_lt hx hy hc
    refine (sample_storeRaster s (buildRaster s.w s.h s.ch (convSample s side num den)) .ok _).trans ?_
    rw [dif_pos (by simpa using hl)]
    have e := buildRaster_getElem (f := convSample s side num den) hx hy hc
    rw [List.getElem?_eq_getElem (by simpa using hl)] at e
    exact Option.some.inj e
  · refine (sample_storeRaster s (buildRaster s.w s.h s.ch (convSample s side num den)) .ok _).trans ?_
    rw [dif_neg]
    simp only [buildRaster_length]
    omega

/-- A rounded quotient that is not positive becomes sample 0. -/
theorem clampByte_round_of_nonpos {num : Int} (h : num ≤ 0) {den : Nat} (hd : 0 < den) : clampByte (round num den) = 0#8 := by
  have hr : round num den ≤ 0 := by
    rw [round_def]
    split
    · have : num = 0 := by omega
      subst this
      rw [Int.ediv_eq_zero_of_lt (by omega) (by omega)]
    · have : 0 ≤ (-2 * num + den) / (2 * (den : Int)) := Int.ediv_nonneg (by omega) (by omega)
      omega
  have hc := clampByte_toNat (round num den)
  apply BitVec.eq_of_toNat_eq
  generalize (clampByte (round num den)).toNat = b at *
  generalize round num den = r at *
  unfold clamp at hc
  simp only [BitVec.toNat_ofNat]
  split at hc
  · omega
  · rw [if_neg (by omega)] at hc
    omega

/-- A rounded quotient of a positive number becomes the nearest sample, a tie going up, at most 255. -/
theorem clampByte_round_of_pos {num : Int} (h : 0 < num) (den : Nat) :
    clampByte (round num den) = BitVec.ofNat 8 (min 255 ((2 * num.toNat + den) / (2 * den))) := by
  have e : round num den = (((2 * num.toNat + den) / (2 * den) : Nat) : Int) := by
    rw [round_def, if_pos (by omega)]
    push_cast
    rw [Int.toNat_of_nonneg (by omega)]
  have hc := clampByte_toNat (round num den)
  apply BitVec.eq_of_toNat_eq
  generalize (clampByte (round num den)).toNat = b at *
  rw [e] at hc
  generalize (2 * num.toNat + den) / (2 * den) = q at *
  rw [BitVec.toNat_ofNat]
  unfold clamp at hc
  rw [if_neg (by omega)] at hc
  split at hc <;> omega

end Sys2Proof.Machine
end

