-- ==== Sys2Proof/Laws/Step.lean ====
section
/-! SUPPORT. What the engine's turn and a step can do, said once: how every command ends, and the three kinds of step. -/

namespace Sys2Proof.Machine

/-! ## How a command ends (R205, R206) -/

/-- A command ends by failing with some code and no other change, or by succeeding after changing only fields that the
engine owns. -/
def Ends (s : State) (o : Host.Outcome State Fault Refusal) : Prop :=
  (∃ r, r ≠ .ok ∧ o = .next (s.complete r)) ∨
  ∃ u : State, o = .next (u.complete .ok) ∧
    u = { s with
          width := u.width
          height := u.height
          channels := u.channels
          flen := u.flen
          pixoff := u.pixoff
          datasize := u.datasize
          hist := u.hist
          cdf := u.cdf
          lut := u.lut
          hdr8 := u.hdr8
          fb := u.fb
          rb := u.rb
          status := { s.status with bufvalid := u.status.bufvalid, hdrvalid := u.status.hdrvalid } }

theorem ends_of_fail {s : State} {r : ResultCode} (h : r ≠ .ok) : Ends s (s.fail r) := .inl ⟨r, h, rfl⟩

theorem ends_needBuffer {s : State} {o : Host.Outcome State Fault Refusal} (h : Ends s o) : Ends s (s.needBuffer o) := by
  unfold State.needBuffer
  split
  · exact h
  · exact ends_of_fail (by decide)

theorem ends_needChannels {s : State} {o : Host.Outcome State Fault Refusal} {n : Nat} (h : Ends s o) :
    Ends s (s.needChannels n o) := by
  unfold State.needChannels
  split
  · exact h
  · exact ends_of_fail (by decide)

/-- No step of DECODE fails with the code of success. -/
theorem decodeFile_error_ne_ok {s : State} {e : ResultCode} (h : decodeFile s = .error e) : e ≠ .ok := by
  unfold decodeFile decodeSized decode8 decode24 State.fileRead at h
  simp only at h
  repeat' split at h
  all_goals first | (cases h; decide) | (cases h; done) | skip
  all_goals (rename_i h2; split at h2 <;> cases h2; first | decide | (cases h; decide))

/-- Every command ends, whatever the state. -/
theorem exec_ends (i : Instr) (s : State) : Ends s (exec i s) := by
  have done : ∀ u : State, u = s → Ends s u.succeed := fun u h => by subst h; exact .inr ⟨_, rfl, rfl⟩
  cases i with
  | nop => exact done _ rfl
  | decode =>
    simp only [exec, execDecode]
    split
    · exact ends_of_fail (decodeFile_error_ne_ok ‹_›)
    · exact .inr ⟨_, rfl, rfl⟩
  | encode =>
    refine ends_needBuffer ?_
    split
    · exact ends_of_fail (by decide)
    · exact .inr ⟨_, rfl, rfl⟩
  | setshape =>
    simp only [exec, execSetshape]
    split
    · exact .inr ⟨_, rfl, rfl⟩
    · exact ends_of_fail ‹_›
  | release => exact .inr ⟨_, rfl, rfl⟩
  | convolve =>
    refine ends_needBuffer ?_
    split
    · exact .inr ⟨_, rfl, rfl⟩
    · exact ends_of_fail (by decide)
  | equalize =>
    refine ends_needBuffer ?_
    split <;> exact .inr ⟨_, rfl, rfl⟩
  | grayscale => exact ends_needBuffer (ends_needChannels (.inr ⟨_, rfl, rfl⟩))
  | thresh => exact ends_needBuffer (ends_needChannels (.inr ⟨_, rfl, rfl⟩))
  | negative => exact ends_needBuffer (.inr ⟨_, rfl, rfl⟩)
  | bright => exact ends_needBuffer (.inr ⟨_, rfl, rfl⟩)
  | boxblur => exact ends_needBuffer (.inr ⟨_, rfl, rfl⟩)
  | gauss => exact ends_needBuffer (.inr ⟨_, rfl, rfl⟩)
  | outline => exact ends_needBuffer (.inr ⟨_, rfl, rfl⟩)
  | emboss => exact ends_needBuffer (.inr ⟨_, rfl, rfl⟩)
  | sharpen => exact ends_needBuffer (.inr ⟨_, rfl, rfl⟩)
  | histo => exact ends_needBuffer (.inr ⟨_, rfl, rfl⟩)

/-- So does the word in IR, illegal or not (R94). -/
theorem perform_ends (s : State) : Ends s s.perform := by
  unfold State.perform
  split
  · exact exec_ends _ _
  · exact ends_of_fail (by decide)

/-! ## What a step is -/

/-- Every next state of a step is of the engine's turn, of one host access, or of a reset. -/
theorem step_cases {s t : State} (h : step s = .next t) :
    (((s.agenda = [] ∨ ∃ rest, s.agenda = .engine :: rest) ∧
      ∃ u : State, u = { s with agenda := s.agenda.tail } ∧
        ((s.status.busy = false ∧ t = u) ∨ (s.status.busy = true ∧ u.perform = .next t)))) ∨
    (∃ a rest, s.agenda = .access a :: rest ∧ t = State.access { s with agenda := rest } a) ∨
    ∃ rest, s.agenda = .rst :: rest ∧ t = State.applyReset { s with agenda := rest } := by
  have turn : ∀ u : State, u.status = s.status → u.engineTurn = .next t →
      (s.status.busy = false ∧ t = u) ∨ (s.status.busy = true ∧ u.perform = .next t) := by
    intro u hu hx
    unfold State.engineTurn at hx
    rw [hu] at hx
    cases hb : s.status.busy
    · rw [hb] at hx
      cases hx
      exact .inl ⟨rfl, rfl⟩
    · rw [hb] at hx
      exact .inr ⟨rfl, hx⟩
  unfold step at h
  split at h
  · rename_i ha
    have e : s = { s with agenda := s.agenda.tail } := by
      rw [ha]
      obtain ⟨⟩ := s
      cases ha
      rfl
    exact .inl ⟨.inl ha, s, e, turn s rfl h⟩
  · rename_i e rest ha
    cases e with
    | access a =>
      cases h
      exact .inr (.inl ⟨a, rest, ha, rfl⟩)
    | engine => exact .inl ⟨.inr ⟨rest, ha⟩, _, by rw [ha]; rfl, turn { s with agenda := rest } rfl h⟩
    | rst =>
      cases h
      exact .inr (.inr ⟨rest, ha, rfl⟩)

/-- A run whose first step goes on. -/
theorem run_succ_of_next (M : Host.Core) (k : Nat) (s t : M.State) (h : M.step s = .next t) :
    M.run (k + 1) s = M.run k t := by simp only [Host.Core.run, h]

end Sys2Proof.Machine
end

