-- ==== Sys2Proof/Tests/Slice0.lean ====
section
/-! SUPPORT. Tests whose expected results are copied from spec/95_test_vectors.md and spec/30_encoding.md, and for every
statement with hypotheses a named state that meets them. -/

namespace Sys2Proof.Tests

open Sys2Proof.Machine Sys2Proof.Claims

/-! ## Small states -/

/-- The state after an outcome; every outcome here is a next state. -/
def after (o : Host.Outcome State Fault Refusal) : State :=
  match o with
  | .next t => t
  | .fault _ => State.reset
  | .refused _ => State.reset

/-- A loaded image without a captured header. -/
def shaped (w h ch : Nat) (samples : List Byte) : State :=
  { State.reset with
    width := BitVec.ofNat 32 w
    height := BitVec.ofNat 32 h
    channels := BitVec.ofNat 32 ch
    status := ⟨false, false, false, false, true, false⟩
    rb := Memory.run 0 samples }

/-- A file in the file buffer. -/
def filed (len : Nat) (bytes : List Byte) : State :=
  { State.reset with
    flen := BitVec.ofNat 32 len
    fb := Memory.run 0 bytes }

/-- A command in flight. -/
def inFlight (w : Word) (s : State) : State :=
  { s with
    ir := w
    status := { s.status with busy := true } }

/-- A host kernel. -/
def withKernel (side div : Nat) (ks : List (BitVec 16)) (s : State) : State :=
  { s with
    krows := BitVec.ofNat 32 side
    kcols := BitVec.ofNat 32 side
    kdiv := BitVec.ofNat 16 div
    kcoef := Memory.run 0 ks }

/-- The operands of SETSHAPE. -/
def withArgs (w h ch : Nat) (s : State) : State :=
  { s with
    argw := BitVec.ofNat 32 w
    argh := BitVec.ofNat 32 h
    argch := BitVec.ofNat 32 ch }

/-- The first 54 bytes of vector V-C1. -/
def header24File : List Byte :=
  [0x42, 0x4D, 0x46, 0, 0, 0, 0, 0, 0, 0, 0x36, 0, 0, 0, 0x28, 0, 0, 0, 2, 0, 0, 0, 2, 0, 0, 0, 1, 0, 0x18, 0, 0, 0] ++
  [0, 0, 0x10, 0, 0, 0, 0x13, 0x0B, 0, 0, 0x13, 0x0B, 0, 0, 0, 0, 0, 0, 0, 0, 0, 0]

/-- The 70-byte file of vector V-C1. -/
def file24 : List Byte :=
  header24File ++ [0xFF, 0, 0, 0xFF, 0xFF, 0xFF, 0, 0] ++ [0, 0, 0xFF, 0, 0xFF, 0, 0, 0]

/-- The first 54 bytes of vector V-C5, with its data-size field as given. -/
def header8File (field : Byte) : List Byte :=
  [0x42, 0x4D, 0x3E, 4, 0, 0, 0, 0, 0, 0, 0x36, 4, 0, 0, 0x28, 0, 0, 0, 3, 0, 0, 0, 2, 0, 0, 0, 1, 0, 8, 0, 0, 0] ++
  [0, 0, field, 0, 0, 0, 0x13, 0x0B, 0, 0, 0x13, 0x0B, 0, 0, 0, 0, 0, 0, 0, 0, 0, 0]

/-- The image of V-C5 with its header captured, the data-size field as given. -/
def captured (field : Byte) : State :=
  { shaped 3 2 1 [127, 128, 129, 10, 200, 128] with
    status := ⟨false, false, false, false, true, true⟩
    hdr8 := Memory.run 0 (header8File field ++ List.replicate 1024 0#8) }

/-- The red, green, blue, white image of V-P2. -/
def rgbw : State := shaped 2 2 3 [255, 0, 0, 0, 255, 0, 0, 0, 255, 255, 255, 255]

/-- Input A of the convolution vectors. -/
def inputA : State := shaped 3 3 1 [10, 20, 30, 40, 50, 60, 70, 80, 90]

theorem exec_after (i : Instr) (s : State) : exec i s = .next (after (exec i s)) := by
  rcases exec_ends i s with ⟨r, -, h⟩ | ⟨u, h, -⟩ <;> rw [h] <;> rfl

theorem step_after (s : State) : step s = .next (after (step s)) := by
  have turn : ∀ u : State, ∃ t, u.engineTurn = .next t := by
    intro u
    unfold State.engineTurn
    split
    · rcases perform_ends u with ⟨r, -, h⟩ | ⟨v, h, -⟩ <;> exact ⟨_, h⟩
    · exact ⟨u, rfl⟩
  obtain ⟨t, h⟩ : ∃ t, step s = .next t := by
    unfold step
    split
    · exact turn s
    · rename_i e rest _
      cases e with
      | access a => exact ⟨_, rfl⟩
      | engine => exact turn { s with agenda := rest }
      | rst => exact ⟨_, rfl⟩
  rw [h]
  rfl

/-! ## WellFormed refuses what no word encodes (R91) -/

theorem test_wellFormed_bright_low : Instr.wellFormed (.bright (-32768)) = true := by decide
theorem test_wellFormed_bright_high : Instr.wellFormed (.bright 32767) = true := by decide
theorem test_illFormed_bright_low : Instr.wellFormed (.bright (-32769)) = false := by decide
theorem test_illFormed_bright_high : Instr.wellFormed (.bright 32768) = false := by decide
theorem test_illFormed_thresh_low : Instr.wellFormed (.thresh (-32769)) = false := by decide
theorem test_illFormed_thresh_high : Instr.wellFormed (.thresh 40000) = false := by decide

/-! ## Words written out from the table of R92 -/

theorem test_decode_nop : decodeTableWord 32 0b00000000000000000000000000000000 = some .nop := by decide
theorem test_decode_decode : decodeTableWord 32 0b00000000000000000000000000000001 = some .decode := by decide
theorem test_decode_encode : decodeTableWord 32 0b00000000000000000000000000000010 = some .encode := by decide
theorem test_decode_setshape : decodeTableWord 32 0b00000000000000000000000000000011 = some .setshape := by decide
theorem test_decode_release : decodeTableWord 32 0b00000000000000000000000000000100 = some .release := by decide
theorem test_decode_negative : decodeTableWord 32 0b00000000000000000000000000010000 = some .negative := by decide
theorem test_decode_grayscale : decodeTableWord 32 0b00000000000000000000000000010001 = some .grayscale := by decide
theorem test_decode_bright : decodeTableWord 32 0b11111111110011100000000000010010 = some (.bright (-50)) := by decide
theorem test_decode_bright_max : decodeTableWord 32 0x7FFF0012 = some (.bright 32767) := by decide
theorem test_decode_bright_min : decodeTableWord 32 0x80000012 = some (.bright (-32768)) := by decide
theorem test_decode_thresh : decodeTableWord 32 0b00000000100000000000000000010011 = some (.thresh 128) := by decide
theorem test_decode_convolve : decodeTableWord 32 0b00000000000000000000000000100000 = some .convolve := by decide
theorem test_decode_boxblur : decodeTableWord 32 0b00000000000000000000000000100001 = some .boxblur := by decide
theorem test_decode_gauss : decodeTableWord 32 0b00000000000000000000000000100010 = some .gauss := by decide
theorem test_decode_outline : decodeTableWord 32 0b00000000000000000000000000100011 = some .outline := by decide
theorem test_decode_emboss : decodeTableWord 32 0b00000000000000000000000000100100 = some .emboss := by decide
theorem test_decode_sharpen : decodeTableWord 32 0b00000000000000000000000000100101 = some .sharpen := by decide
theorem test_decode_equalize : decodeTableWord 32 0b00000000000000000000000000110000 = some .equalize := by decide
theorem test_decode_histo : decodeTableWord 32 0b00000000000000000000000000110001 = some .histo := by decide

/-- The illegal words of 95_test_vectors.md, section 2. -/
theorem test_decode_illegal :
    [0x00010000, 0x00010010, 0x00000112, 0x00800113, 0x05, 0x14, 0x26, 0x32, 0xFF, 0xFFFFFFFF].map
      (decodeTableWord 32) = List.replicate 10 none := by decide

/-- R97's worked expansions. -/
theorem test_encode_worked :
    encode (.bright (-1000)) = 0xFC180012#32 ∧ encode (.thresh 128) = 0x00800013#32 ∧ encode .equalize = 0x30#32 := by
  decide

/-- No two rows of the opcode map cover one word (R93). -/
theorem test_opcode_rows_disjoint :
    opcodeRows.Pairwise fun r q => r.pattern &&& (r.mask &&& q.mask) ≠ q.pattern &&& (r.mask &&& q.mask) := by decide

/-! ## One step of each command (95_test_vectors.md) -/

/-- V-S3. -/
theorem test_nop : (after (step (State.reset.withFetchWord 32 0))).status.toWord = 0x2#32 := by decide

/-- V-C1. -/
theorem test_decode_24 :
    let t := after (exec .decode (filed 70 file24))
    t.samples = [255, 0, 0, 0, 255, 0, 0, 0, 255, 255, 255, 255] ∧ t.datasize = 16#32 ∧ t.status.toWord = 0x12#32 := by
  decide +kernel

/-- V-C7: width 2^30 exceeds the capacity. -/
theorem test_decode_capacity :
    (after (exec .decode (filed 70 ((file24.set 18 0).set 21 0x40)))).result = .capacityExceeded := by decide +kernel

/-- V-C1, the file back. -/
theorem test_encode_24 : (after (exec .encode rgbw)).fileBytesAt 0 70 = file24 := by decide +kernel

/-- V-C5, the pixel bytes of an 8-bit file. -/
theorem test_encode_8 :
    (after (exec .encode (captured 8))).fileBytesAt 1078 8 = [10, 200, 128, 0, 127, 128, 129, 0] := by decide +kernel

/-- V-S4. -/
theorem test_setshape : (after (exec .setshape (withArgs 2 2 1 inputA))).samples = [0, 0, 0, 0] := by decide +kernel

/-- V-S4: the channel test comes first. -/
theorem test_setshape_order : (after (exec .setshape (withArgs 0 0 2 inputA))).result = .shapeMismatch := by decide

/-- V-S5. -/
theorem test_release : (after (exec .release (captured 8))).status.toWord = 0x2#32 := by decide

/-- V-P1. -/
theorem test_negative : (after (exec .negative (shaped 2 2 1 [0, 85, 170, 255]))).samples = [255, 170, 85, 0] := by
  decide +kernel

/-- V-P2. -/
theorem test_grayscale :
    (after (exec .grayscale rgbw)).samples = [85, 85, 85, 85, 85, 85, 85, 85, 85, 255, 255, 255] := by decide +kernel

/-- V-P3. -/
theorem test_bright : (after (exec (.bright (-50)) (shaped 4 1 1 [0, 100, 206, 250]))).samples = [0, 50, 156, 200] := by
  decide +kernel

/-- V-P3. -/
theorem test_bright_saturates :
    (after (exec (.bright 50) (shaped 4 1 1 [0, 100, 206, 250]))).samples = [50, 150, 255, 255] := by decide +kernel

/-- S8: the comparison is inclusive. -/
theorem test_thresh : (after (exec (.thresh 128) (shaped 3 1 1 [100, 128, 200]))).samples = [0, 255, 255] := by
  decide +kernel

/-- V-X1: the buffer is tested before the channels. -/
theorem test_thresh_order : (after (exec (.thresh 1) State.reset)).result = .emptyBuffer := by decide

/-- V-K8: the kernel is not mirrored, and no output is read back. -/
theorem test_convolve :
    (after (exec .convolve (withKernel 3 1 [1, 0, 0, 0, 0, 0, 0, 0, 0] inputA))).samples =
      [0, 0, 0, 0, 10, 20, 0, 40, 50] := by decide +kernel

/-- V-K7: negative numerators and a divisor. -/
theorem test_convolve_signed :
    (after (exec .convolve (withKernel 3 2 [0, 0, 0, 0xFFFF, 0, 1, 0, 0, 0] inputA))).samples =
      [10, 10, 0, 25, 10, 0, 40, 10, 0] := by decide +kernel

/-- V-K1. -/
theorem test_boxblur : (after (exec .boxblur inputA)).samples = [13, 23, 18, 30, 50, 37, 27, 43, 31] := by decide +kernel

/-- V-K15: channels stay apart. -/
theorem test_boxblur_channels :
    (after (exec .boxblur (shaped 2 1 3 [90, 0, 255, 0, 180, 255]))).samples = [10, 20, 57, 10, 20, 57] := by
  decide +kernel

/-- V-K2. -/
theorem test_gauss : (after (exec .gauss inputA)).samples = [13, 23, 21, 33, 50, 43, 36, 53, 43] := by decide +kernel

/-- V-K12: ties. -/
theorem test_gauss_tie : (after (exec .gauss (shaped 1 1 1 [2]))).samples = [1] := by decide +kernel

/-- V-K3. -/
theorem test_outline : (after (exec .outline inputA)).samples = [0, 0, 110, 90, 0, 210, 255, 255, 255] := by decide +kernel

/-- V-K4. -/
theorem test_emboss : (after (exec .emboss inputA)).samples = [170, 210, 70, 255, 255, 30, 110, 0, 0] := by decide +kernel

/-- V-K5. -/
theorem test_sharpen : (after (exec .sharpen inputA)).samples = [0, 10, 70, 70, 50, 130, 230, 190, 255] := by
  decide +kernel

/-- V-E3. -/
theorem test_equalize_1 : (after (exec .equalize (shaped 2 2 1 [50, 50, 100, 200]))).samples = [0, 0, 128, 255] := by
  decide +kernel

/-- V-E8. -/
theorem test_equalize_3 :
    (after (exec .equalize (shaped 2 1 3 [0, 0, 0, 200, 100, 50]))).samples = [0, 0, 0, 255, 231, 181] := by decide +kernel

/-- V-E1. -/
theorem test_histo :
    let t := after (exec .histo (shaped 2 2 1 [0, 85, 170, 255]))
    [0, 1, 85, 255].map t.histEntry = [1, 0, 1, 1] ∧ [0, 84, 85, 170, 255].map t.cdfEntry = [1, 1, 2, 3, 4] := by
  decide +kernel

/-- V-E6, on a 3-channel buffer. -/
theorem test_histo_3 : [29, 76, 150, 255].map (after (exec .histo rgbw)).histEntry = [1, 1, 1, 1] := by decide +kernel

/-! ## The host's side -/

/-- V-S1: which accesses are errors after reset. -/
theorem test_access_errors :
    [locate 0x50#32 .word, locate 0x04#32 .byte, locate 0x06#32 .word, locate 0x0C02#32 .word, locate 0x5434#32 .word,
      locate 0x5436#32 .byte, locate 0x10C4#32 .word] = List.replicate 7 none := by decide

/-- V-S1: the last places of the small windows. -/
theorem test_last_places :
    locate 0x0C02#32 .half = some (.bytes .lut 2) ∧ locate 0x5435#32 .byte = some (.bytes .hdr8 1077) ∧
    locate 0x10C0#32 .word = some (.kcoef 48) := by decide

/-- V-S2: FLEN is clamped. -/
theorem test_flen_clamped : (State.reset.busWrite 0x1C#32 .word 0x02000000#32).flen = 0x01000000#32 := by decide

/-- V-S2: KCOEF keeps 16 bits and reads them sign-extended. -/
theorem test_kcoef :
    ((State.reset.busWrite 0x1000#32 .word 0x00018000#32).busRead 0x1000#32 .word).busOut =
      some (.data 0xFFFF8000#32) := by decide

/-- V-X2: a CMD write while busy is dropped and sets HZD; STATUS then reads BUSY and HZD and BUFVALID. -/
theorem test_busy_rule :
    let t := State.busWrite (inFlight 0x21#32 inputA) 0#32 .word 0x10#32
    t.ir = 0x21#32 ∧ t.status.toWord = 0x19#32 := by decide

/-- V-X4: a reset abandons the command in flight. -/
theorem test_reset_abandons :
    let t := after (step { inFlight 0x21#32 inputA with agenda := [.rst] })
    t.status.toWord = 0#32 ∧ t.ir = 0#32 ∧ t.kdiv = 1#16 := by decide

/-- The placed word is performed by the very next step: EQUALIZE right after reset finds no buffer. -/
theorem test_placed_word : (after (step (State.reset.withFetchWord 32 0x30))).result = .emptyBuffer := by decide

/-! # Every statement's hypotheses are met -/

/-- A loaded shape that fits is a sound shape. -/
theorem shaped_ok {w h ch : Nat} (samples : List Byte) (hw : 1 ≤ w ∧ w < 2 ^ 32) (hh : 1 ≤ h ∧ h < 2 ^ 32)
    (hc : ch = 1 ∨ ch = 3) (fits : w * h * ch ≤ 16777216) : (shaped w h ch samples).ShapeOk := by
  have e1 : (shaped w h ch samples).w = w := Nat.mod_eq_of_lt hw.2
  have e2 : (shaped w h ch samples).h = h := Nat.mod_eq_of_lt hh.2
  have e3 : (shaped w h ch samples).ch = ch := Nat.mod_eq_of_lt (by omega)
  refine ⟨fun _ => ?_, fun h => by cases h⟩
  rw [e1, e2, e3]
  exact ⟨hw.1, hh.1, hc, fits⟩

theorem witness_DecodeOfEncodeIsIdentity :
    Instr.wellFormed (.bright (-32768)) = true ∧ Instr.wellFormed (.bright 32767) = true ∧
    Instr.wellFormed .histo = true := by decide

theorem witness_EncodeOfDecodeIsIdentity :
    decode 0x80000012#32 = .ok (.bright (-32768)) ∧ decode 0x31#32 = .ok .histo := by decide

theorem witness_EveryWordIsOneRowOrIllegal :
    decode 0xFFFF0013#32 = .ok (.thresh (-1)) ∧ decode 0x00010000#32 = .error .immediateOnFormatN := by decide

theorem witness_IllegalWordsCompleteWithIllegalCommand :
    (inFlight 0x32#32 State.reset).status.busy = true ∧ (inFlight 0x32#32 State.reset).agenda = [] ∧
    decode (inFlight 0x32#32 State.reset).ir = .error .unknownOpcode ∧
    ({ inFlight 0x32#32 State.reset with agenda := [.engine, .rst] } : State).agenda = .engine :: [.rst] := by decide

theorem witness_StepPerformsTheDecodedCommand :
    (inFlight 0x10#32 inputA).status.busy = true ∧ decode (inFlight 0x10#32 inputA).ir = .ok .negative ∧
    (inFlight 0x10#32 inputA).agenda = [] ∧
    ({ inFlight 0x10#32 inputA with agenda := [.engine, .rst] } : State).agenda = .engine :: [.rst] := by decide

theorem witness_PlacedWordRunsNext : decode 0x00800013#32 = .ok (.thresh 128) := by decide

theorem witness_IdleEngineDoesNothing :
    inputA.status.busy = false ∧ inputA.agenda = [] ∧
    ({ inputA with agenda := [.engine] } : State).agenda = .engine :: [] := by decide

theorem witness_EveryAcceptedCommandCompletes :
    (inFlight 0x30#32 inputA).status.busy = true ∧ (inFlight 0x30#32 inputA).agenda = [] ∧
    ({ inFlight 0x30#32 inputA with agenda := [.engine, .rst] } : State).agenda = .engine :: [.rst] := by decide

theorem witness_FailureChangesNothingElse :
    ∃ t, exec .gauss State.reset = .next t ∧ t.result ≠ .ok := ⟨_, exec_after _ _, by decide⟩

theorem witness_ResultCodesOfEachCommand : ∃ t, exec .nop State.reset = .next t := ⟨_, exec_after _ _⟩

theorem witness_NoCommandWritesTheHostsOperands : ∃ t, exec .equalize inputA = .next t := ⟨_, exec_after _ _⟩

theorem witness_EachMemoryHasItsWriters :
    (∃ t, exec .release inputA = .next t) ∧ (∃ t, exec .histo inputA = .next t) ∧ ∃ t, exec (.thresh 3) inputA = .next t :=
  ⟨⟨_, exec_after _ _⟩, ⟨_, exec_after _ _⟩, ⟨_, exec_after _ _⟩⟩

theorem witness_ShapeChangesOnlyBySuccess :
    (∃ t, step (inFlight 0x04#32 inputA) = .next t ∧ t.width ≠ inputA.width) ∧
    ∃ t, step { inputA with agenda := [.rst] } = .next t ∧ t.width ≠ inputA.width :=
  ⟨⟨_, step_after _, by decide⟩, ⟨_, step_after _, by decide⟩⟩

theorem witness_ResultChangesOnlyAtCompletion :
    (∃ t, step (inFlight 0x10#32 State.reset) = .next t ∧ t.result ≠ State.reset.result) ∧
    ∃ t, step { State.reset with result := .ioError, agenda := [.rst] } = .next t ∧ t.result ≠ .ioError :=
  ⟨⟨_, step_after _, by decide⟩, ⟨_, step_after _, by decide⟩⟩

/-- Each branch at its boundary: channels 2 and 0; a zero side; 2^24 + 4096 samples; 2^24 samples. -/
theorem witness_SetshapeMakesAZeroBuffer :
    let big := withArgs 4097 4096 1 State.reset
    let most := withArgs 4096 4096 1 State.reset
    let none := withArgs 5 0 3 State.reset
    ((withArgs 1 1 2 State.reset).argch.toNat ≠ 1 ∧ (withArgs 1 1 2 State.reset).argch.toNat ≠ 3) ∧
    ((withArgs 1 1 0 State.reset).argch.toNat ≠ 1 ∧ (withArgs 1 1 0 State.reset).argch.toNat ≠ 3) ∧
    (none.argch.toNat = 3 ∧ none.argh.toNat = 0) ∧
    (big.argch.toNat = 1 ∧ 0 < big.argw.toNat ∧ 0 < big.argh.toNat ∧
      16777216 < big.argw.toNat * big.argh.toNat * big.argch.toNat) ∧
    (most.argch.toNat = 1 ∧ 0 < most.argw.toNat ∧ 0 < most.argh.toNat ∧
      most.argw.toNat * most.argh.toNat * most.argch.toNat ≤ 16777216) := by decide

theorem witness_ReleaseDropsTheBuffer :
    (State.reset.ShapeOk ∧ State.reset.status.bufvalid = false) ∧ ∃ t, exec .release rgbw = .next t :=
  ⟨⟨⟨(fun h => by cases h), fun _ => ⟨rfl, rfl, rfl, rfl⟩⟩, rfl⟩, _, exec_after _ _⟩

theorem witness_FileReadIsBoundedLittleEndian :
    (filed 69 file24).fileLen < 66 + 4 ∧ 69 + 1 ≤ (filed 70 file24).fileLen ∧ 68 + 2 ≤ (filed 70 file24).fileLen ∧
    66 + 4 ≤ (filed 70 file24).fileLen := by decide

/-- Each branch at its boundary: FLEN 1; FLEN 2 without "BM"; FLEN 53; depth 32 and compression 1 at FLEN 54; width 0 and
height -2; width 2^30. -/
theorem witness_DecodeRejectsInOrder :
    let bm := fun s : State => s.fileByte 0 = 0x42#8 ∧ s.fileByte 1 = 0x4D#8
    let format := fun s : State => (s.fileField 28 2 = 8 ∨ s.fileField 28 2 = 24) ∧ s.fileField 30 4 = 0
    let depth32 := filed 54 (file24.set 28 0x20)
    let packed := filed 54 (file24.set 30 1)
    let flat := filed 54 (file24.set 18 0)
    let upsideDown := filed 54 (((file24.set 22 0xFE).set 23 0xFF |>.set 24 0xFF).set 25 0xFF)
    let wide := filed 54 ((file24.set 18 0).set 21 0x40)
    (filed 1 file24).fileLen < 2 ∧
    (2 ≤ (filed 2 [0x4D, 0x42]).fileLen ∧ ¬ bm (filed 2 [0x4D, 0x42])) ∧
    (2 ≤ (filed 53 file24).fileLen ∧ bm (filed 53 file24) ∧ (filed 53 file24).fileLen < 54) ∧
    (54 ≤ depth32.fileLen ∧ bm depth32 ∧ ¬ format depth32) ∧ (54 ≤ packed.fileLen ∧ bm packed ∧ ¬ format packed) ∧
    (54 ≤ flat.fileLen ∧ bm flat ∧ format flat ∧ widthField flat ≤ 0) ∧
    (54 ≤ upsideDown.fileLen ∧ bm upsideDown ∧ format upsideDown ∧ heightField upsideDown ≤ 0) ∧
    (54 ≤ wide.fileLen ∧ bm wide ∧ format wide ∧ 0 < widthField wide ∧ 0 < heightField wide ∧
      16777216 < widthField wide * heightField wide * 3) := by decide +kernel

/-- FLEN 69 and FLEN 70 of a 70-byte file. -/
theorem witness_DecodeReadsA24BitFile :
    (SizeAccepted (filed 69 file24) 24 2 2 3 ∧ (filed 69 file24).fileLen < 54 + row24 2 * 2) ∧
    (SizeAccepted (filed 70 file24) 24 2 2 3 ∧ 54 + row24 2 * 2 ≤ (filed 70 file24).fileLen) :=
  ⟨⟨⟨⟨by decide, by decide +kernel, by decide +kernel, by decide +kernel⟩, by decide +kernel, by decide +kernel,
      by decide, by decide⟩, by decide⟩,
    ⟨⟨⟨by decide, by decide +kernel, by decide +kernel, by decide +kernel⟩, by decide +kernel, by decide +kernel,
      by decide, by decide⟩, by decide⟩⟩

/-- An 8-bit file of 3 by 2 pixels with the given length and data-size field. -/
def short8 (len : Nat) (field : Byte) : State := filed len (header8File field)

theorem short8_fields : ∀ p ∈ [(1077, 8#8), (1086, 4#8), (1085, 8#8), (1086, 8#8), (1086, 0#8)],
    54 ≤ (short8 p.1 p.2).fileLen ∧ (short8 p.1 p.2).fileByte 0 = 0x42#8 ∧ (short8 p.1 p.2).fileByte 1 = 0x4D#8 ∧
    (short8 p.1 p.2).fileField 28 2 = 8 ∧ (short8 p.1 p.2).fileField 30 4 = 0 ∧
    widthField (short8 p.1 p.2) = (3 : Nat) ∧ heightField (short8 p.1 p.2) = (2 : Nat) := by decide +kernel

theorem short8_accepted (len : Nat) (field : Byte)
    (h : (len, field) ∈ [(1077, 8#8), (1086, 4#8), (1085, 8#8), (1086, 8#8), (1086, 0#8)]) :
    SizeAccepted (short8 len field) 8 3 2 1 := by
  obtain ⟨h1, h2, h3, h4, h5, h6, h7⟩ := short8_fields _ h
  exact ⟨⟨h1, ⟨h2, h3⟩, h4, h5⟩, h6, h7, by decide, by decide⟩

/-- FLEN 1077; a data-size field of 4 with 8 needed; FLEN 1085 and 1086 with a field of 8; a field of 0. -/
theorem witness_DecodeReadsAn8BitFile :
    (SizeAccepted (short8 1077 8) 8 3 2 1 ∧ (short8 1077 8).fileLen < 1078) ∧
    (SizeAccepted (short8 1086 4) 8 3 2 1 ∧ (short8 1086 4).fileField 34 4 ≠ 0 ∧
      (short8 1086 4).fileField 34 4 < row8 3 * 2) ∧
    (SizeAccepted (short8 1085 8) 8 3 2 1 ∧ (short8 1085 8).fileLen < 1078 + (short8 1085 8).fileField 34 4) ∧
    (SizeAccepted (short8 1086 8) 8 3 2 1 ∧ row8 3 * 2 ≤ (short8 1086 8).fileField 34 4 ∧
      1078 + (short8 1086 8).fileField 34 4 ≤ (short8 1086 8).fileLen) ∧
    (SizeAccepted (short8 1086 0) 8 3 2 1 ∧ (short8 1086 0).fileField 34 4 = 0 ∧
      1078 + row8 3 * 2 ≤ (short8 1086 0).fileLen) := by
  have ok := fun len field => short8_accepted len field
  refine ⟨⟨ok _ _ (by decide), by decide⟩, ⟨ok _ _ (by decide), by decide +kernel, by decide +kernel⟩,
    ⟨ok _ _ (by decide), by decide +kernel⟩,
    ⟨ok _ _ (by decide), by decide +kernel, by decide +kernel⟩,
    ⟨ok _ _ (by decide), by decide +kernel, by decide +kernel⟩⟩

/-- A byte written elsewhere does not change byte `k` of the file. -/
theorem fileByte_write_ne (s : State) (a k : Nat) (v : Byte) (h : k ≠ a) :
    ({ s with fb := s.fb.write a [v] } : State).fileByte k = s.fileByte k :=
  Memory.item_congr (Memory.get?_write_of_outside s.fb a [v] k (by simp; omega))

/-- The file of V-C1 and the one of V-C7 with 64 in its offset field. -/
theorem witness_DecodeIgnoresOtherHeaderBytes :
    let s := filed 70 file24
    let s' : State := { s with fb := s.fb.write 10 [0x40#8] }
    s' = { s with fb := s'.fb } ∧ s.fileField 28 2 ≠ 8 ∧
    (∀ k, k < 2 ∨ (18 ≤ k ∧ k < 26) ∨ (28 ≤ k ∧ k < 34) ∨ 54 ≤ k → s'.fileByte k = s.fileByte k) ∧
    s'.fileField 10 4 = 64 ∧ s.fileField 10 4 = 54 := by
  refine ⟨rfl, by decide +kernel, fun k hk => ?_, by decide +kernel, by decide +kernel⟩
  exact fileByte_write_ne (filed 70 file24) 10 k 0x40#8 (by omega)

/-- Without a buffer; a 1 by 4194291 image, whose file is 2 bytes too long; and a 1 by 4194290 one, which fits. -/
theorem witness_EncodeWritesA24BitFile :
    let long := shaped 1 4194291 3 []
    let fits := shaped 1 4194290 3 []
    State.reset.status.bufvalid = false ∧
    (long.status.bufvalid = true ∧ long.ch = 3 ∧ 16777216 < 54 + row24 long.w * long.h) ∧
    (fits.status.bufvalid = true ∧ fits.ch = 3 ∧ 54 + row24 fits.w * fits.h ≤ 16777216) := by decide

/-- A 1 by 4194035 image, whose file is 2 bytes too long; a 1 by 4194034 one, which fits; with and without a header. -/
theorem witness_EncodeWritesAn8BitFile :
    let long := shaped 1 4194035 1 []
    let fits := shaped 1 4194034 1 []
    (long.status.bufvalid = true ∧ long.ch = 1 ∧ 16777216 < 1078 + row8 long.w * long.h) ∧
    (fits.status.bufvalid = true ∧ fits.ch = 1 ∧ 1078 + row8 fits.w * fits.h ≤ 16777216 ∧ fits.status.hdrvalid = false) ∧
    ((captured 8).status.bufvalid = true ∧ (captured 8).ch = 1 ∧
      1078 + row8 (captured 8).w * (captured 8).h ≤ 16777216 ∧ (captured 8).status.hdrvalid = true) := by decide

theorem captured_shapeOk (field : Byte) : (captured field).ShapeOk :=
  ⟨(shaped_ok (w := 3) (h := 2) (ch := 1) [] (by decide) (by decide) (.inl rfl) (by decide)).loaded, fun h => by cases h⟩

theorem captured_fields : ∀ field ∈ [0#8, 8#8, 12#8], (captured field).headerField 0 2 = 0x4D42 ∧
    (captured field).headerField 28 2 = 8 ∧ (captured field).headerField 30 4 = 0 ∧
    (captured field).headerField 18 4 = 3 ∧ (captured field).headerField 22 4 = 2 := by decide +kernel

theorem captured_headerOk (field : Byte) (hf : field ∈ [0#8, 8#8, 12#8]) : (captured field).HeaderOk := by
  obtain ⟨h1, h2, h3, h4, h5⟩ := captured_fields field hf
  refine ⟨fun _ => rfl, fun _ k hk => ?_, fun _ => h1, fun _ => h2, fun _ => h3, fun _ => h4, fun _ => h5⟩
  show (Memory.get? (Memory.run 0 (header8File field ++ List.replicate 1024 0#8)) k).isSome
  have e : (header8File field ++ List.replicate 1024 0#8).length = 1078 := by
    rw [List.length_append, List.length_replicate, show (header8File field).length = 54 from rfl]
  rw [Memory.get?_run, if_pos (Nat.zero_le _), Nat.sub_zero, List.getElem?_eq_getElem (by omega)]
  rfl

/-- A 3-channel image, a 1-channel one without a header, and captured headers with the field 0, the rows' size, and more. -/
theorem witness_DecodeOfEncodedFileGivesTheImageBack :
    (rgbw.ShapeOk ∧ rgbw.HeaderOk ∧ rgbw.status.bufvalid = true ∧ rgbw.ch = 3 ∧
      ∃ t, exec .encode rgbw = .next t ∧ t.result = .ok) ∧
    (inputA.ShapeOk ∧ inputA.HeaderOk ∧ inputA.status.bufvalid = true ∧ inputA.ch = 1 ∧
      inputA.status.hdrvalid = false ∧ ∃ t, exec .encode inputA = .next t ∧ t.result = .ok) ∧
    ∀ field ∈ [0#8, 8#8, 12#8], (captured field).ShapeOk ∧ (captured field).HeaderOk ∧
      (captured field).status.bufvalid = true ∧ (captured field).ch = 1 ∧ (captured field).status.hdrvalid = true ∧
      (captured field).headerField 34 4 = field.toNat ∧ row8 (captured field).w * (captured field).h = 8 ∧
      ∃ t, exec .encode (captured field) = .next t ∧ t.result = .ok := by
  have none : ∀ s : State, s.status.hdrvalid = false → s.HeaderOk := fun s h => by
    constructor <;> intro h' <;> rw [h] at h' <;> cases h'
  refine ⟨⟨shaped_ok _ (by decide) (by decide) (.inr rfl) (by decide), none _ rfl, rfl, rfl, _, exec_after _ _, rfl⟩,
    ⟨shaped_ok _ (by decide) (by decide) (.inl rfl) (by decide), none _ rfl, rfl, rfl, rfl, _, exec_after _ _, rfl⟩,
    fun field hf => ⟨captured_shapeOk _, captured_headerOk _ hf, rfl, rfl, rfl, ?_, ?_, _, exec_after _ _, ?_⟩⟩
  all_goals
    simp only [List.mem_cons, List.not_mem_nil, or_false] at hf
    rcases hf with rfl | rfl | rfl <;> decide +kernel

theorem witness_NegativeComplementsEverySample :
    State.reset.status.bufvalid = false ∧ inputA.status.bufvalid = true ∧
    ∃ t u, exec .negative inputA = .next t ∧ exec .negative t = .next u :=
  ⟨rfl, rfl, _, _, exec_after _ _, exec_after _ _⟩

theorem witness_GrayscaleAveragesEachPixel :
    State.reset.status.bufvalid = false ∧ (inputA.status.bufvalid = true ∧ inputA.ch ≠ 3) ∧
    (rgbw.status.bufvalid = true ∧ rgbw.ch = 3 ∧ (0 < rgbw.total ∧ 3 < rgbw.total)) ∧
    ∃ t u, exec .grayscale rgbw = .next t ∧ exec .grayscale t = .next u :=
  ⟨rfl, ⟨rfl, by decide⟩, ⟨rfl, rfl, by decide⟩, _, _, exec_after _ _, exec_after _ _⟩

theorem witness_BrightAddsAndSaturates :
    State.reset.status.bufvalid = false ∧ inputA.status.bufvalid = true ∧ (∃ t, exec (.bright 255) inputA = .next t) ∧
    (∃ t, exec (.bright (-255)) inputA = .next t) ∧ (∃ t, exec (.bright 0) inputA = .next t) ∧ 8 < inputA.nSamples :=
  ⟨rfl, rfl, ⟨_, exec_after _ _⟩, ⟨_, exec_after _ _⟩, ⟨_, exec_after _ _⟩, by decide⟩

theorem witness_ThreshCompares :
    State.reset.status.bufvalid = false ∧ (rgbw.status.bufvalid = true ∧ rgbw.ch ≠ 1) ∧
    (inputA.status.bufvalid = true ∧ inputA.ch = 1 ∧ 8 < inputA.nSamples) ∧
    (∃ t, exec (.thresh 0) inputA = .next t) ∧ ∃ t, exec (.thresh 256) inputA = .next t :=
  ⟨rfl, ⟨rfl, by decide⟩, ⟨rfl, rfl, by decide⟩, ⟨_, exec_after _ _⟩, ⟨_, exec_after _ _⟩⟩

theorem witness_RoundIsNearestTiesAwayFromZero : 0 < 2 ∧ 2 * |(5 : Int) - 2 * round 5 2| = 2 := by decide

theorem witness_TiesAwayAndUpAgreeOnSamples : 0 < 2 ∧ roundWith .away (-1) 2 ≠ roundWith .up (-1) 2 := by decide

/-- No buffer; not square, even, larger than 7, divisor 0; and sides 1 and 7. -/
theorem witness_ConvolveTakesTheWindowSum :
    let s := fun side div => withKernel side div [1] inputA
    State.reset.status.bufvalid = false ∧ inputA.status.bufvalid = true ∧
    ({ s 3 1 with kcols := 5#32 } : State).krows ≠ ({ s 3 1 with kcols := 5#32 } : State).kcols ∧
    (s 2 1).krows.toNat % 2 = 0 ∧ 7 < (s 9 1).krows.toNat ∧ (s 3 0).kdiv.toNat = 0 ∧
    ((s 1 1).krows = (s 1 1).kcols ∧ (s 1 1).krows.toNat % 2 = 1 ∧ (s 1 1).krows.toNat ≤ 7 ∧ 0 < (s 1 1).kdiv.toNat) ∧
    ((s 7 65535).krows = (s 7 65535).kcols ∧ (s 7 65535).krows.toNat % 2 = 1 ∧ (s 7 65535).krows.toNat ≤ 7 ∧
      0 < (s 7 65535).kdiv.toNat) := by decide

theorem witness_PresetsTakeTheirFixedKernels :
    presets.length = 5 ∧ State.reset.status.bufvalid = false ∧ inputA.status.bufvalid = true := by decide

theorem witness_PresetIsConvolveWithItsKernel :
    let s' := withKernel 3 1 [0, -1, 0, -1, 5, -1, 0, -1, 0] inputA
    s' = { inputA with krows := 3#32, kcols := 3#32, kdiv := BitVec.ofNat 16 1, kcoef := s'.kcoef } ∧
    ∀ e < 9, (s'.kernelBits e).toInt = [0, -1, 0, -1, 5, -1, 0, -1, (0 : Int)].getD e 0 := ⟨rfl, by decide +kernel⟩

/-- Two images that agree on channel 0 only. -/
theorem witness_ConvolutionKeepsChannelsApart :
    let s := shaped 2 1 3 [90, 0, 255, 0, 180, 255]
    let s' := shaped 2 1 3 [90, 1, 2, 0, 3, 4]
    s' = { s with rb := s'.rb } ∧ 0 < s.ch ∧ (∀ x < s.w, ∀ y < s.h, s'.pixelSample x y 0 = s.pixelSample x y 0) ∧
    (∃ t, exec .boxblur s = .next t) ∧ ∃ t, exec .boxblur s' = .next t :=
  ⟨rfl, by decide, by decide +kernel, ⟨_, exec_after _ _⟩, ⟨_, exec_after _ _⟩⟩

theorem witness_LumaNeverNeedsItsClamp : (255 : Nat) ≤ 255 ∧ lumaBin 255 255 255 = 255 ∧ lumaBin 0 0 0 = 0 := by decide

theorem witness_HistoCountsLevels :
    State.reset.status.bufvalid = false ∧ inputA.ShapeOk ∧ inputA.status.bufvalid = true :=
  ⟨rfl, shaped_ok _ (by decide) (by decide) (.inl rfl) (by decide), rfl⟩

/-- An image of several levels, and one of a single level (the guard line of R174). -/
theorem witness_EqualizeRemapsOneChannel :
    (inputA.ShapeOk ∧ inputA.status.bufvalid = true ∧ inputA.ch = 1) ∧
    ((shaped 2 2 1 [7, 7, 7, 7]).ShapeOk ∧ (shaped 2 2 1 [7, 7, 7, 7]).ch = 1) :=
  ⟨⟨shaped_ok _ (by decide) (by decide) (.inl rfl) (by decide), rfl, rfl⟩,
    shaped_ok _ (by decide) (by decide) (.inl rfl) (by decide), rfl⟩

theorem witness_EqualizeRemapsLuma : rgbw.ShapeOk ∧ rgbw.status.bufvalid = true ∧ rgbw.ch = 3 :=
  ⟨shaped_ok _ (by decide) (by decide) (.inr rfl) (by decide), rfl, rfl⟩

theorem witness_EqualizeTableIsMonotone :
    rgbw.ShapeOk ∧ ∃ t, exec .equalize rgbw = .next t ∧ t.result = .ok :=
  ⟨shaped_ok _ (by decide) (by decide) (.inr rfl) (by decide), _, exec_after _ _, rfl⟩

theorem witness_CommandWriteAcceptsWhenIdle :
    State.reset.status.busy = false ∧ (inFlight 0#32 State.reset).status.busy = true := by decide

theorem witness_RegisterReadsAnswer :
    State.reset.status.busy = false ∧ (0x34#32, 1#32) ∈ registerReads State.reset ∧
    (0x4C#32, 7#32) ∈ registerReads State.reset ∧ (0x4C#32 ∈ openReads ∧ 0x34#32 ∉ openReads) := by decide

theorem witness_RegisterWritesStore :
    State.reset.status.busy = false ∧
    (0x1C#32, { State.reset with flen := 16777216#32 }) ∈ registerWrites State.reset 16777217#32 ∧
    (0x1C#32, { State.reset with flen := 16777216#32 }) ∈ registerWrites State.reset 16777216#32 ∧
    ((0x0C#32, { State.reset with irqen := ⟨true, true, true⟩ }) ∈ registerWrites State.reset 0xE#32 ∧
      0x0C#32 ∈ openWrites) := by decide

/-- A register that is not open, an open one for each clause's complement, and the last word of the raster buffer. -/
theorem witness_BusyRuleDropsAccesses :
    (inFlight 0x21#32 inputA).status.busy = true ∧ (Mapped 0x2C#32 .word ∧ 0x2C#32 ∉ openReads ∧ 0x2C#32 ∉ openWrites) ∧
    (Mapped 0x40#32 .word ∧ 0x40#32 ∈ openReads ∧ 0x40#32 ∉ openWrites) ∧
    (Mapped 0x20FFFFFC#32 .word ∧ 0x20FFFFFC#32 ∉ openReads) := by
  unfold Mapped
  decide

/-- The first hole, a misaligned word, a byte of a word window, and a word that leaves HDR8. -/
theorem witness_AccessErrorsChangeNothing :
    ¬ Mapped 0x50#32 .word ∧ ¬ Mapped 0x06#32 .word ∧ ¬ Mapped 0x04#32 .byte ∧ ¬ Mapped 0x5434#32 .word := by
  unfold Mapped
  decide

/-- The first byte and the last word. -/
theorem witness_FileBufferAccessIsLittleEndian :
    State.reset.status.busy = false ∧ (0 % AccessSize.byte.bytes = 0 ∧ 0 + AccessSize.byte.bytes ≤ 16777216) ∧
    (16777212 % AccessSize.word.bytes = 0 ∧ 16777212 + AccessSize.word.bytes ≤ 16777216) := by decide

/-- The last sample and the first word of an image of nine samples. -/
theorem witness_RasterAccessIsLittleEndian :
    inputA.ShapeOk ∧ inputA.status.busy = false ∧ (8 % AccessSize.byte.bytes = 0 ∧ 8 + AccessSize.byte.bytes ≤ inputA.nSamples) ∧
    (0 % AccessSize.word.bytes = 0 ∧ 0 + AccessSize.word.bytes ≤ inputA.nSamples) :=
  ⟨shaped_ok _ (by decide) (by decide) (.inl rfl) (by decide), rfl, by decide, by decide⟩

theorem witness_KernelMemoryKeepsSixteenBits : State.reset.status.busy = false ∧ 0 < 49 ∧ 48 < 49 := by decide

theorem witness_ReadOnlyWindowsIgnoreWrites :
    State.reset.status.busy = false ∧ (Mapped 0x400#32 .word ∧ 0x400 ≤ (0x400#32).toNat ∧ (0x400#32).toNat < 0xD00) ∧
    (Mapped 0xCFF#32 .byte ∧ (0xCFF#32).toNat < 0xD00) ∧ (Mapped 0x5000#32 .word ∧ 0x5000 ≤ (0x5000#32).toNat) ∧
    (Mapped 0x5435#32 .byte ∧ (0x5435#32).toNat < 0x5436) := by
  unfold Mapped
  decide

theorem witness_InterruptIsAFunctionOfFlags :
    ((0xE#32).getLsbD 1 = true ∧ (0xE#32).getLsbD 2 = true ∧ (0xE#32).getLsbD 3 = true) ∧
    ((0xFFFFFFF1#32).getLsbD 1 = false ∧ (0xFFFFFFF1#32).getLsbD 2 = false ∧ (0xFFFFFFF1#32).getLsbD 3 = false) := by
  decide

/-- The last item of each window, an aligned access ending at its end. -/
theorem witness_WindowReadsAnswer :
    let header : State := captured 8
    inputA.status.busy = false ∧ header.status.busy = false ∧ 255 < 256 ∧ 48 < 49 ∧
    (252 % AccessSize.word.bytes = 0 ∧ 252 + AccessSize.word.bytes ≤ 256) ∧
    (header.status.hdrvalid = true ∧ 1076 % AccessSize.half.bytes = 0 ∧ 1076 + AccessSize.half.bytes ≤ 1078) ∧
    (16777212 % AccessSize.word.bytes = 0 ∧ 16777212 + AccessSize.word.bytes ≤ 16777216) ∧
    (8 % AccessSize.byte.bytes = 0 ∧ 8 + AccessSize.byte.bytes ≤ min inputA.nSamples 16777216) := by decide

/-- The last byte of HDR8; a word whose first byte is the last sample of the image; the last word of the window. -/
theorem witness_UnspecifiedPlacesAnswerSomeValue :
    inputA.status.busy = false ∧
    (inputA.status.hdrvalid = false ∧ 1077 % AccessSize.byte.bytes = 0 ∧ 1077 + AccessSize.byte.bytes ≤ 1078) ∧
    (8 % AccessSize.word.bytes = 0 ∧ 8 < inputA.nSamples ∧ inputA.nSamples < 8 + AccessSize.word.bytes) ∧
    (16777212 % AccessSize.word.bytes = 0 ∧ 16777212 + AccessSize.word.bytes ≤ 16777216 ∧
      inputA.nSamples < 16777212 + AccessSize.word.bytes) := by decide

theorem witness_ResetReachesTheResetState :
    ({ inFlight 0x21#32 inputA with agenda := [.rst, .engine] } : State).agenda = .rst :: [.engine] := by decide

/-- A loaded 1 by 1 image in a sound state, at the engine's turn. -/
theorem witness_EveryStepKeepsTheStateSound :
    (inFlight 0x10#32 (shaped 1 1 1 [5])).Inv ∧ ∃ t, step (inFlight 0x10#32 (shaped 1 1 1 [5])) = .next t := by
  have empty : ∀ {w n : Nat}, Memory.wf ([] : Memory w) ∧ Memory.within n ([] : Memory w) := fun {_ _} =>
    ⟨List.Pairwise.nil, fun _ hc => by cases hc⟩
  refine ⟨⟨⟨empty, empty, empty, empty, empty, empty, by decide⟩,
    ⟨fun _ => ⟨by decide, by decide, .inl rfl, by decide⟩, fun h => by cases h⟩, ?_, ?_, .inl ⟨rfl, rfl⟩, by decide⟩,
    _, step_after _⟩
  · constructor <;> intro h <;> cases h
  · intro k hk
    have : k < 1 := hk
    obtain rfl : k = 0 := by omega
    rfl

/-- NOP, a read of RESULT, and a kernel of 49 numerators. -/
theorem witness_WaitingHostNeverBreaksTheBusyRule :
    let lines : List HostLine := [.command .nop, .rd .word 8#32, .kernel 7#32 1#32 (List.replicate 49 1)]
    let s : State := { State.reset with agenda := hostProgram 2 lines }
    (∀ l ∈ lines, l.waitsForCommands = true) ∧ s.status.busy = false ∧ s.status.hzd = false ∧
    s.agenda = hostProgram 2 lines := ⟨by decide, rfl, rfl, rfl⟩

end Sys2Proof.Tests
end

/-! PROOFS. The rounding rule R7: `round` is odd, so every fact about it follows from the one about a numerator that is
not negative, where it is a floor. -/

namespace Sys2Proof.Machine

/-- R7 gives a negative quotient the mirror image of its absolute value's rounding. -/
theorem round_neg (num : Int) {den : Nat} (hd : 0 < den) : round (-num) den = -round num den := by
  rw [round_def, round_def]
  obtain hneg | rfl | hpos := lt_trichotomy num 0
  · rw [if_pos (by omega), if_neg (by omega), neg_neg, mul_neg, neg_mul]
  · have half : (den : Int) / (2 * den) = 0 := Int.ediv_eq_zero_of_lt (by omega) (by omega)
    simp [half]
  · rw [if_neg (by omega), if_pos (by omega), neg_mul_neg]

/-- From zero up, the remainder lies in `[-den/2, den/2)`: a tie leaves it negative, so it was sent up. -/
theorem round_remainder_of_nonneg {num : Int} (h : 0 ≤ num) {den : Nat} (hd : 0 < den) :
    -(den : Int) ≤ 2 * (num - den * round num den) ∧ 2 * (num - den * round num den) < den := by
  have hpos : (0 : Int) < 2 * den := by omega
  have lower := Int.ediv_mul_le (2 * num + den) hpos.ne'
  have upper := Int.lt_ediv_add_one_mul_self (2 * num + den) hpos
  rw [← round_of_nonneg h] at lower upper
  constructor <;> linarith

theorem round_nearest_of_nonneg {num : Int} (h : 0 ≤ num) {den : Nat} (hd : 0 < den) :
    2 * |num - den * round num den| ≤ den ∧
    (2 * |num - den * round num den| = den → |num| ≤ den * |round num den|) := by
  obtain ⟨lower, upper⟩ := round_remainder_of_nonneg h hd
  refine ⟨by rw [← abs_two, ← abs_mul]; exact abs_le.mpr ⟨lower, upper.le⟩, fun tie => ?_⟩
  have sentUp : num ≤ den * round num den := by
    by_contra! below
    rw [abs_of_pos (by omega)] at tie
    omega
  calc |num| = num := abs_of_nonneg h
    _ ≤ den * round num den := sentUp
    _ ≤ den * |round num den| := mul_le_mul_of_nonneg_left (le_abs_self _) (by omega)

theorem round_nearest (num : Int) {den : Nat} (hd : 0 < den) :
    2 * |num - den * round num den| ≤ den ∧
    (2 * |num - den * round num den| = den → |num| ≤ den * |round num den|) := by
  obtain h | h := le_total 0 num
  · exact round_nearest_of_nonneg h hd
  · have mirrored := round_nearest_of_nonneg (neg_nonneg.mpr h) hd
    rwa [round_neg num hd, mul_neg, neg_sub_neg, abs_sub_comm, abs_neg, abs_neg] at mirrored

end Sys2Proof.Machine

namespace Sys2Proof.Proofs

open Sys2Proof.Machine

/-- Settles O33: the general part is `round_nearest`, the rule's five examples are evaluated. -/
theorem roundIsNearestTiesAwayFromZero : Obligations.RoundIsNearestTiesAwayFromZero :=
  ⟨fun num _ hd => round_nearest num hd, by decide⟩

end Sys2Proof.Proofs

/-! PROOFS. The sound states (`State.Inv`): one lemma for each way in which an operation of the engine or of the host
changes a sound state, then what a command, an access and a step make of it. -/

namespace Sys2Proof.Machine

/-! ## What every next state of an outcome has -/

/-- Every next state that the outcome answers has property `P`. -/
def Yields (P : State → Prop) (o : Host.Outcome State Fault Refusal) : Prop :=
  ∀ t, o = .next t → P t

theorem yields_next {P : State → Prop} {u : State} (h : P u) : Yields P (.next u) := by
  rintro t ⟨⟩
  exact h

theorem yields_needBuffer {P : State → Prop} {s : State} {o : Host.Outcome State Fault Refusal}
    (failed : P (s.complete .emptyBuffer)) (body : s.status.bufvalid = true → Yields P o) :
    Yields P (s.needBuffer o) := by
  intro t ht
  obtain ⟨loaded, hb⟩ | ⟨-, rfl⟩ := State.needBuffer_eq_next ht
  · exact body loaded t hb
  · exact failed

theorem yields_needChannels {P : State → Prop} {s : State} {n : Nat} {o : Host.Outcome State Fault Refusal}
    (failed : P (s.complete .shapeMismatch)) (body : Yields P o) : Yields P (s.needChannels n o) := by
  intro t ht
  obtain ⟨-, hb⟩ | ⟨-, rfl⟩ := State.needChannels_eq_next ht
  · exact body t hb
  · exact failed

/-! ## What keeps a state sound -/

/-- The registers of the host, IR, RESULT, PIXOFF, DATASIZE, the four flags of completion and hazard and the model's
counters are in no invariant. -/
theorem State.Inv.of_unconstrained {s t : State} (h : s.Inv)
    (frame : t = { s with
      ir := t.ir
      result := t.result
      irqen := t.irqen
      argw := t.argw
      argh := t.argh
      argch := t.argch
      krows := t.krows
      kcols := t.kcols
      kdiv := t.kdiv
      pixoff := t.pixoff
      datasize := t.datasize
      freeCount := t.freeCount
      agenda := t.agenda
      busOut := t.busOut
      status := { t.status with bufvalid := s.status.bufvalid, hdrvalid := s.status.hdrvalid } }) : t.Inv := by
  rw [frame]
  exact ⟨{ h.memories with }, { h.shape with }, { h.header with }, h.samples, h.tables, h.fileLen⟩

theorem State.Inv.complete {s : State} (h : s.Inv) (r : ResultCode) : (s.complete r).Inv :=
  h.of_unconstrained rfl

/-- Samples that are written inside the raster buffer. -/
theorem State.Inv.writeRaster {s : State} (h : s.Inv) {k : Nat} {vs : List Byte}
    (fits : k + vs.length ≤ Config.rasterCap) : State.Inv { s with rb := s.rb.write k vs } where
  memories := { h.memories with
    rb := ⟨Memory.write_wf h.memories.rb.1 k vs, Memory.write_within h.memories.rb.2 k vs fits⟩ }
  shape := { h.shape with }
  header := { h.header with }
  samples a ha := Memory.isSome_get?_write s.rb k vs a (h.samples a ha)
  tables := h.tables
  fileLen := h.fileLen

/-- Bytes that are written inside the file buffer, and a length within it. -/
theorem State.Inv.writeFile {s : State} (h : s.Inv) {k : Nat} {vs : List Byte} {len : Word}
    (fits : k + vs.length ≤ Config.fileCap) (hlen : len.toNat ≤ Config.fileCap) :
    State.Inv { s with fb := s.fb.write k vs, flen := len } where
  memories := { h.memories with
    fb := ⟨Memory.write_wf h.memories.fb.1 k vs, Memory.write_within h.memories.fb.2 k vs fits⟩ }
  shape := { h.shape with }
  header := { h.header with }
  samples := h.samples
  tables := h.tables
  fileLen := hlen

theorem State.Inv.writeLength {s : State} (h : s.Inv) {len : Word} (hlen : len.toNat ≤ Config.fileCap) :
    State.Inv { s with flen := len } :=
  ⟨{ h.memories with }, { h.shape with }, { h.header with }, h.samples, h.tables, hlen⟩

theorem State.Inv.writeKernel {s : State} (h : s.Inv) {e : Nat} (he : e < Config.kmax * Config.kmax) (v : BitVec 16) :
    State.Inv { s with kcoef := s.kcoef.write e [v] } where
  memories := { h.memories with
    kcoef := ⟨Memory.write_wf h.memories.kcoef.1 e [v], Memory.write_within h.memories.kcoef.2 e [v] he⟩ }
  shape := { h.shape with }
  header := { h.header with }
  samples := h.samples
  tables := h.tables
  fileLen := h.fileLen

/-- The whole remap table. -/
theorem State.Inv.writeLut {s : State} (h : s.Inv) {vs : List Byte} (fits : vs.length ≤ 256) :
    State.Inv { s with lut := s.lut.write 0 vs } where
  memories := { h.memories with
    lut := ⟨Memory.write_wf h.memories.lut.1 0 vs, Memory.write_within h.memories.lut.2 0 vs (by omega)⟩ }
  shape := { h.shape with }
  header := { h.header with }
  samples := h.samples
  tables := h.tables
  fileLen := h.fileLen

/-! ### The tables (R171, R172) -/

/-- No more levels are counted than there are. -/
theorem sum_count_le_length (levels : List Nat) (n : Nat) :
    ∑ j ∈ Finset.range n, levels.count j ≤ levels.length := by
  rw [← List.sum_toFinset_count_eq_length]
  refine Finset.sum_le_sum_of_ne_zero fun v _ hv => ?_
  rw [List.mem_toFinset]
  exact List.count_pos_iff.1 (Nat.pos_of_ne_zero hv)

/-- HIST after the tables are stored, the counts being small enough for its words. -/
theorem histEntry_storeTables (s : State) {levels : List Nat} (small : levels.length < 2 ^ 32) {v : Nat} (hv : v < 256) :
    ((s.storeTables levels).histEntry v).toNat = levels.count v := by
  have entry : ((histogram levels).map (BitVec.ofNat 32))[v]? = some (BitVec.ofNat 32 (levels.count v)) := by
    rw [List.getElem?_map, histogram_getElem? levels hv, Option.map_some]
  have e : (s.storeTables levels).histEntry v = BitVec.ofNat 32 (levels.count v) := item_of_write entry
  have := List.count_le_length (a := v) (l := levels)
  rw [e, BitVec.toNat_ofNat, Nat.mod_eq_of_lt (by omega)]

/-- CDF after the tables are stored. -/
theorem cdfEntry_storeTables (s : State) {levels : List Nat} (small : levels.length < 2 ^ 32) {i : Nat} (hi : i < 256) :
    ((s.storeTables levels).cdfEntry i).toNat = ∑ j ∈ Finset.range (i + 1), levels.count j := by
  have entry : ((cdfOf (histogram levels)).map (BitVec.ofNat 32))[i]? =
      some (BitVec.ofNat 32 (∑ j ∈ Finset.range (i + 1), levels.count j)) := by
    rw [List.getElem?_map, cdfOf_histogram_getElem? levels hi, Option.map_some]
  have e : (s.storeTables levels).cdfEntry i = BitVec.ofNat 32 (∑ j ∈ Finset.range (i + 1), levels.count j) :=
    item_of_write entry
  have := sum_count_le_length levels (i + 1)
  rw [e, BitVec.toNat_ofNat, Nat.mod_eq_of_lt (by omega)]

theorem storeTables_tablesOk (s : State) {levels : List Nat} (small : levels.length < 2 ^ 32) :
    (s.storeTables levels).TablesOk := by
  refine .inr ⟨?_, fun i hi => ?_⟩
  · rw [cdfEntry_storeTables s small (by omega), histEntry_storeTables s small (by omega), Finset.sum_range_one]
  · rw [cdfEntry_storeTables s small (by omega), cdfEntry_storeTables s small (by omega),
      histEntry_storeTables s small (by omega), Finset.sum_range_succ]

theorem State.Inv.storeTables {s : State} (h : s.Inv) {levels : List Nat} (small : levels.length < 2 ^ 32) :
    (s.storeTables levels).Inv where
  memories := { h.memories with
    hist := ⟨Memory.write_wf h.memories.hist.1 0 _, Memory.write_within h.memories.hist.2 0 _ (by simp)⟩
    cdf := ⟨Memory.write_wf h.memories.cdf.1 0 _, Memory.write_within h.memories.cdf.2 0 _ (by simp)⟩ }
  shape := { h.shape with }
  header := { h.header with }
  samples := h.samples
  tables := storeTables_tablesOk s small
  fileLen := h.fileLen

/-- The image fits the raster buffer. -/
theorem State.ShapeOk.nSamples_le {s : State} (h : s.ShapeOk) : s.nSamples ≤ Config.rasterCap := by
  unfold State.nSamples
  split
  · obtain ⟨-, -, -, fits⟩ := h.loaded ‹_›
    exact fits
  · exact Nat.zero_le _

/-- An image has no more levels to count than samples. -/
theorem State.Inv.levels_length_lt {s : State} (h : s.Inv) (loaded : s.status.bufvalid = true) :
    s.levels.length < 2 ^ 32 := by
  have cap := h.shape.nSamples_le
  obtain ⟨-, -, channels, fits⟩ := h.shape.loaded loaded
  have pixels : s.total ≤ s.w * s.h * s.ch := Nat.le_mul_of_pos_right _ (by omega)
  unfold Config.rasterCap at cap fits
  unfold State.levels
  split
  · rw [List.length_map, List.length_range]
    omega
  · rw [List.length_map, List.length_range]
    omega

/-! ### The image and its header (R26, R43) -/

/-- A new image with a sample for each place, and with a sound header or none. -/
theorem State.Inv.newImage {s t : State} (h : s.Inv) {vs : List Byte}
    (frame : t = { s with
      width := t.width
      height := t.height
      channels := t.channels
      status := t.status
      pixoff := t.pixoff
      datasize := t.datasize
      hdr8 := t.hdr8
      rb := s.rb.write 0 vs })
    (loaded : t.status.bufvalid = true) (positive : 1 ≤ t.w ∧ 1 ≤ t.h) (channels : t.ch = 1 ∨ t.ch = 3)
    (fits : t.w * t.h * t.ch ≤ Config.rasterCap) (filled : vs.length = t.w * t.h * t.ch)
    (hdr8 : t.hdr8.wf ∧ t.hdr8.within 1078) (header : t.HeaderOk) : t.Inv where
  memories := by
    rw [frame]
    exact { h.memories with
      hdr8 := hdr8
      rb := ⟨Memory.write_wf h.memories.rb.1 0 vs, Memory.write_within h.memories.rb.2 0 vs (by omega)⟩ }
  shape := ⟨fun _ => ⟨positive.1, positive.2, channels, fits⟩, fun empty => by simp [loaded] at empty⟩
  header := header
  samples k hk := by
    have rb : t.rb = s.rb.write 0 vs := by rw [frame]
    have inside : k < vs.length := by
      rw [State.nSamples, if_pos loaded] at hk
      omega
    have stored := Memory.get?_write_of_lt s.rb 0 vs k inside
    rw [Nat.zero_add] at stored
    rw [rb, stored]
    rfl
  tables := by
    rw [frame]
    exact h.tables
  fileLen := by
    rw [frame]
    exact h.fileLen

/-- With HDRVALID 0 nothing is asked of the header. -/
theorem headerOk_of_none {t : State} (none : t.status.hdrvalid = false) : t.HeaderOk := by
  constructor <;> intro valid <;> simp [none] at valid

/-- A field of a captured header is the file's field. -/
theorem headerField_of_captured {s t : State} (captured : t.hdr8 = s.hdr8.write 0 (s.fileBytesAt 0 1078)) {off n : Nat}
    (inside : off + n ≤ 1078) : t.headerField off n = s.fileField off n := by
  unfold State.headerField State.fileField State.fileBytesAt
  congr 1
  refine List.map_congr_left fun k hk => ?_
  rw [List.mem_range] at hk
  unfold State.headerByte
  rw [captured]
  refine item_of_write ?_
  rw [State.fileBytesAt, List.getElem?_map, List.getElem?_range (by omega), Option.map_some, Nat.zero_add]

/-- An 8-bit file's first bytes are captured (R118). -/
theorem commitFile_hdr8_of_some {s : State} {f : DecodedFile} {bytes : List Byte} (h : f.header = some bytes) :
    (s.commitFile f).hdr8 = s.hdr8.write 0 bytes := by
  simp [State.commitFile, h]

/-- A 24-bit file leaves HDR8 as it is (R43). -/
theorem commitFile_hdr8_of_none {s : State} {f : DecodedFile} (h : f.header = none) :
    (s.commitFile f).hdr8 = s.hdr8 := by
  simp [State.commitFile, h]

/-- The commit of a decoded file (R121). -/
theorem State.Inv.commitFile {s : State} (h : s.Inv) {f : DecodedFile} (hf : decodeFile s = .ok f) :
    (s.commitFile f).Inv := by
  obtain ⟨sig, -, comp, width, height, posW, posH, fits, filled, kind⟩ := decodeFile_ok hf
  have ltW := fileField_lt s 18 4
  have ltH := fileField_lt s 22 4
  have channels : f.channels = 1 ∨ f.channels = 3 := kind.imp And.left And.left
  have w : (s.commitFile f).w = f.width := by
    show (BitVec.ofNat 32 f.width).toNat = f.width
    rw [BitVec.toNat_ofNat, Nat.mod_eq_of_lt (by omega)]
  have hh : (s.commitFile f).h = f.height := by
    show (BitVec.ofNat 32 f.height).toNat = f.height
    rw [BitVec.toNat_ofNat, Nat.mod_eq_of_lt (by omega)]
  have ch : (s.commitFile f).ch = f.channels := by
    show (BitVec.ofNat 32 f.channels).toNat = f.channels
    rw [BitVec.toNat_ofNat, Nat.mod_eq_of_lt (by omega)]
  have image := fun hdr8 header => h.newImage (t := s.commitFile f) rfl rfl (by rw [w, hh]; exact ⟨posW, posH⟩)
    (by rwa [ch]) (by rwa [w, hh, ch]) (by rwa [w, hh, ch]) hdr8 header
  obtain ⟨one, depth, some, -⟩ | ⟨-, -, none⟩ := kind
  · have captured : (s.commitFile f).hdr8 = s.hdr8.write 0 (s.fileBytesAt 0 1078) := commitFile_hdr8_of_some some
    have length : (s.fileBytesAt 0 1078).length = 1078 := by simp [State.fileBytesAt]
    refine image ?_
      ⟨fun _ => ch.trans one, fun _ k hk => ?_, fun _ => ?_, fun _ => ?_, fun _ => ?_, fun _ => ?_, fun _ => ?_⟩
    · rw [captured]
      exact ⟨Memory.write_wf h.memories.hdr8.1 0 _, Memory.write_within h.memories.hdr8.2 0 _ (by omega)⟩
    · have stored := Memory.get?_write_of_lt s.hdr8 0 (s.fileBytesAt 0 1078) k (by omega)
      rw [Nat.zero_add] at stored
      rw [captured, stored]
      rfl
    · exact (headerField_of_captured captured (by omega)).trans sig
    · exact (headerField_of_captured captured (by omega)).trans depth
    · exact (headerField_of_captured captured (by omega)).trans comp
    · exact (headerField_of_captured captured (by omega)).trans (width.symm.trans w.symm)
    · exact (headerField_of_captured captured (by omega)).trans (height.symm.trans hh.symm)
  · refine image ?_ (headerOk_of_none (by simp [none]))
    rw [commitFile_hdr8_of_none none]
    exact h.memories.hdr8

/-- SETSHAPE's tests pass for the shapes of R26 only. -/
theorem setshapeCheck_eq_ok {w h ch : Nat} (ok : setshapeCheck w h ch = .ok) :
    (ch = 1 ∨ ch = 3) ∧ (1 ≤ w ∧ 1 ≤ h) ∧ w * h * ch ≤ Config.rasterCap := by
  unfold setshapeCheck at ok
  split_ifs at ok
  omega

/-! ## What a command makes of a sound state -/

theorem State.Inv.mapRaster {s : State} (h : s.Inv) (f : Nat → Byte) : Yields State.Inv (s.mapRaster f) := by
  have cap := h.shape.nSamples_le
  exact yields_next ((h.writeRaster (k := 0) (by simpa using cap)).complete .ok)

theorem State.Inv.convolveWith {s : State} (h : s.Inv) (loaded : s.status.bufvalid = true) (side : Nat)
    (num : Nat → Int) (den : Nat) : Yields State.Inv (s.convolveWith side num den) := by
  obtain ⟨-, -, -, fits⟩ := h.shape.loaded loaded
  exact yields_next ((h.writeRaster (k := 0) (by simpa using fits)).complete .ok)

theorem State.Inv.preset {s : State} (h : s.Inv) (numerators : List Int) (den : Nat) :
    Yields State.Inv (s.preset numerators den) :=
  yields_needBuffer (h.complete _) fun loaded => h.convolveWith loaded 3 _ den

theorem State.Inv.storeRemap {s : State} (h : s.Inv) {lut : List Nat} {samples : List Byte} (table : lut.length ≤ 256)
    (fits : samples.length ≤ Config.rasterCap) : (s.storeRemap lut samples).Inv :=
  (h.writeLut (by simpa using table)).writeRaster (k := 0) (by simpa using fits)

theorem State.Inv.execDecode {s : State} (h : s.Inv) : Yields State.Inv (execDecode s) := by
  unfold Machine.execDecode
  split
  · exact yields_next (h.complete _)
  · exact yields_next ((h.commitFile ‹_›).complete .ok)

theorem State.Inv.execEncode {s : State} (h : s.Inv) : Yields State.Inv (execEncode s) := by
  refine yields_needBuffer (h.complete _) fun _ => ?_
  split
  · exact yields_next (h.complete _)
  · rename_i fits
    rw [not_lt] at fits
    have length : (BitVec.ofNat 32 (encodedLength s)).toNat ≤ Config.fileCap :=
      (BitVec.toNat_ofNat ..).trans_le ((Nat.mod_le _ _).trans fits)
    exact yields_next ((h.writeFile (k := 0) (by simpa using fits) length).complete .ok)

theorem State.Inv.execSetshape {s : State} (h : s.Inv) : Yields State.Inv (execSetshape s) := by
  unfold Machine.execSetshape
  split
  · rename_i ok
    obtain ⟨channels, positive, fits⟩ := setshapeCheck_eq_ok ok
    refine yields_next (State.Inv.complete ?_ .ok)
    exact h.newImage rfl rfl positive channels fits List.length_replicate h.memories.hdr8 (headerOk_of_none rfl)
  · exact yields_next (h.complete _)

theorem State.Inv.execRelease {s : State} (h : s.Inv) : Yields State.Inv (execRelease s) := by
  refine yields_next (State.Inv.complete ?_ .ok)
  exact {
    memories := { h.memories with }
    shape := ⟨fun loaded => (by cases loaded), fun _ => ⟨rfl, rfl, rfl, rfl⟩⟩
    header := headerOk_of_none rfl
    samples := fun _ hk => (Nat.not_lt_zero _ hk).elim
    tables := h.tables
    fileLen := h.fileLen }

theorem State.Inv.execEqualize {s : State} (h : s.Inv) : Yields State.Inv (execEqualize s) := by
  refine yields_needBuffer (h.complete _) fun loaded => ?_
  have tables := h.storeTables (h.levels_length_lt loaded)
  have cap := h.shape.nSamples_le
  split
  · exact yields_next ((tables.storeRemap (by simp) (by simpa using cap)).complete .ok)
  · exact yields_next ((tables.storeRemap (by simp) (by simpa using cap)).complete .ok)

/-- Every command keeps the state sound. -/
theorem State.Inv.exec {s : State} (h : s.Inv) (i : Instr) : Yields State.Inv (exec i s) := by
  cases i with
  | nop => exact yields_next (h.complete .ok)
  | decode => exact h.execDecode
  | encode => exact h.execEncode
  | setshape => exact h.execSetshape
  | release => exact h.execRelease
  | negative => exact yields_needBuffer (h.complete _) fun _ => h.mapRaster _
  | grayscale => exact yields_needBuffer (h.complete _) fun _ => yields_needChannels (h.complete _) (h.mapRaster _)
  | bright => exact yields_needBuffer (h.complete _) fun _ => h.mapRaster _
  | thresh => exact yields_needBuffer (h.complete _) fun _ => yields_needChannels (h.complete _) (h.mapRaster _)
  | convolve =>
    refine yields_needBuffer (h.complete _) fun loaded => ?_
    split
    · exact h.convolveWith loaded _ _ _
    · exact yields_next (h.complete _)
  | boxblur => exact h.preset _ _
  | gauss => exact h.preset _ _
  | outline => exact h.preset _ _
  | emboss => exact h.preset _ _
  | sharpen => exact h.preset _ _
  | equalize => exact h.execEqualize
  | histo =>
    exact yields_needBuffer (h.complete _) fun loaded =>
      yields_next ((h.storeTables (h.levels_length_lt loaded)).complete .ok)

/-- The command word in IR is performed as a command, or completes as an illegal one (R93, R94). -/
theorem perform_cases {s t : State} (h : s.perform = .next t) :
    (∃ i, decode s.ir = .ok i ∧ exec i s = .next t) ∨ t = s.complete .illegalCommand := by
  unfold State.perform at h
  split at h
  · exact .inl ⟨_, ‹_›, h⟩
  · cases h
    exact .inr rfl

/-- So does the command word in IR, illegal or not. -/
theorem State.Inv.perform {s : State} (h : s.Inv) : Yields State.Inv s.perform := by
  intro t performed
  obtain ⟨i, -, executed⟩ | rfl := perform_cases performed
  · exact h.exec i t executed
  · exact h.complete _

/-! ## What a host access makes of a sound state -/

/-- FLEN is clamped to the file buffer's capacity (R28). -/
theorem clampLength_toNat (v : Word) : (clampLength v).toNat = min v.toNat Config.fileCap := by
  have := v.isLt
  unfold clampLength
  rw [BitVec.toNat_ofNat, Nat.mod_eq_of_lt (by omega)]

theorem State.Inv.writeReg {s : State} (h : s.Inv) (r : Reg) (v : Word) : (s.writeReg r v).Inv := by
  cases r with
  | flen =>
    refine h.writeLength ?_
    rw [clampLength_toNat]
    exact Nat.min_le_right _ _
  | _ => exact h.of_unconstrained rfl

/-- What a located access reaches lies inside its memory. -/
theorem locate_inside {addr : Word} {n : AccessSize} {t : Target} (h : locate addr n = some t) :
    (∀ win k, t = .bytes win k → k + n.bytes ≤ win.size) ∧ ∀ e, t = .kcoef e → e < Config.kmax * Config.kmax := by
  obtain ⟨-, byBytes | ⟨-, byWord⟩⟩ := locate_eq_some h
  · obtain ⟨win, k, rfl, -, inside⟩ := byteTarget_eq_some byBytes
    exact ⟨by rintro _ _ ⟨⟩; exact inside, by rintro _ ⟨⟩⟩
  · refine ⟨?_, ?_⟩
    · rintro win k rfl
      obtain ⟨_, ⟨⟩, _⟩ | ⟨⟨⟩, _⟩ | ⟨⟨⟩, _⟩ | ⟨⟨⟩, _⟩ := wordTarget_eq_some byWord
    · rintro e rfl
      obtain ⟨_, ⟨⟩, _⟩ | ⟨⟨⟩, _⟩ | ⟨⟨⟩, _⟩ | ⟨⟨⟩, lower, upper⟩ := wordTarget_eq_some byWord
      unfold Config.kmax
      omega

theorem State.Inv.writeTarget {s : State} (h : s.Inv) {addr : Word} {n : AccessSize} {t : Target}
    (located : locate addr n = some t) (v : Word) : (s.writeTarget t n v).Inv := by
  obtain ⟨bytesInside, kernelInside⟩ := locate_inside located
  cases t with
  | reg r => exact h.writeReg r v
  | hist => exact h
  | cdf => exact h
  | kcoef e => exact h.writeKernel (kernelInside e rfl) _
  | bytes win k =>
    have inside := bytesInside win k rfl
    rw [← leBytes_length n.bytes v.toNat] at inside
    cases win with
    | lut => exact h
    | hdr8 => exact h
    | fbuf => exact h.writeFile inside h.fileLen
    | rbuf => exact h.writeRaster inside

/-- An access either writes what it reaches, or changes no more than HZD, the read counter and the bus's answer. -/
theorem access_cases (s : State) (a : Access) :
    (∃ addr n v t, locate addr n = some t ∧ s.access a = (s.writeTarget t n v).answerWrite) ∨
    s.access a = { s with
      status := { s.status with hzd := (s.access a).status.hzd }
      freeCount := (s.access a).freeCount
      busOut := (s.access a).busOut } := by
  cases a with
  | read addr n =>
    right
    simp only [State.access, State.busRead]
    split
    · rfl
    · split <;> rfl
  | write addr n v =>
    cases located : locate addr n with
    | none =>
      right
      simp only [State.access, busWrite_of_error located]
      rfl
    | some t =>
      by_cases violation : (s.status.busy && !t.openToWrite) = true
      · right
        simp only [State.access, State.busWrite, located, if_pos violation]
        rfl
      · left
        exact ⟨addr, n, v, t, located, by simp only [State.access, State.busWrite, located, if_neg violation]⟩

theorem State.Inv.access {s : State} (h : s.Inv) (a : Access) : (s.access a).Inv := by
  obtain ⟨addr, n, v, t, located, written⟩ | answered := access_cases s a
  · rw [written]
    exact (h.writeTarget located v).of_unconstrained rfl
  · rw [answered]
    exact h.of_unconstrained rfl

/-! ## Reset and step -/

/-- The reset state is sound (R50), whatever the model's own counters and agenda are. -/
theorem reset_inv (epoch count : Nat) (agenda : List Event) :
    State.Inv { State.reset with powerEpoch := epoch, freeCount := count, agenda := agenda } where
  memories := by constructor <;> exact ⟨List.Pairwise.nil, fun _ none => (List.not_mem_nil none).elim⟩
  shape := ⟨fun loaded => (by cases loaded), fun _ => ⟨rfl, rfl, rfl, rfl⟩⟩
  header := headerOk_of_none rfl
  samples _ hk := (Nat.not_lt_zero _ hk).elim
  tables := .inl ⟨rfl, rfl⟩
  fileLen := Nat.zero_le _

/-- Every step keeps the state sound. -/
theorem step_keeps_inv {s t : State} (h : s.Inv) (next : step s = .next t) : t.Inv := by
  have popped : ∀ rest, State.Inv { s with agenda := rest } := fun _ => h.of_unconstrained rfl
  obtain ⟨-, u, rfl, ⟨-, rfl⟩ | ⟨-, performed⟩⟩ | ⟨a, rest, -, rfl⟩ | ⟨rest, -, rfl⟩ := step_cases next
  · exact popped _
  · exact (popped _).perform t performed
  · exact (popped rest).access a
  · exact reset_inv _ _ rest

end Sys2Proof.Machine

namespace Sys2Proof.Proofs

open Sys2Proof.Machine

/-- Settles O56. -/
theorem resetIsSound : Obligations.ResetIsSound :=
  fun agenda => reset_inv 0 0 agenda

/-- Settles O57, by cases on what the step is: `step_keeps_inv`. -/
theorem everyStepKeepsTheStateSound : Obligations.EveryStepKeepsTheStateSound :=
  fun _ _ => step_keeps_inv

end Sys2Proof.Proofs

/-! PROOFS. What a command and an access leave of the registers, and so which steps can change the shape and RESULT. -/

namespace Sys2Proof.Machine

/-! ## What a completed command leaves -/

/-- A command that has ended has the completion flags of R205, and either only failed or succeeded. -/
theorem Ends.completed {s t : State} {o : Host.Outcome State Fault Refusal} (h : Ends s o) (next : o = .next t) :
    (t.status.busy = false ∧ t.status.done = true) ∧ ((∃ r, t = s.complete r) ∨ t.result = .ok) := by
  obtain ⟨r, -, rfl⟩ | ⟨u, rfl, -⟩ := h
  · cases next
    exact ⟨⟨rfl, rfl⟩, .inl ⟨r, rfl⟩⟩
  · cases next
    exact ⟨⟨rfl, rfl⟩, .inr rfl⟩

/-- WIDTH, HEIGHT, CHANNELS, BUFVALID and HDRVALID are the same in `t` as in `s`. -/
def SameShape (s t : State) : Prop :=
  t.width = s.width ∧ t.height = s.height ∧ t.channels = s.channels ∧ t.status.bufvalid = s.status.bufvalid ∧
    t.status.hdrvalid = s.status.hdrvalid

theorem sameShape_complete (s : State) (r : ResultCode) : SameShape s (s.complete r) := ⟨rfl, rfl, rfl, rfl, rfl⟩

theorem mapRaster_sameShape (s : State) (f : Nat → Byte) : Yields (SameShape s) (s.mapRaster f) :=
  yields_next ⟨rfl, rfl, rfl, rfl, rfl⟩

theorem convolveWith_sameShape (s : State) (side : Nat) (num : Nat → Int) (den : Nat) :
    Yields (SameShape s) (s.convolveWith side num den) :=
  yields_next ⟨rfl, rfl, rfl, rfl, rfl⟩

theorem preset_sameShape (s : State) (numerators : List Int) (den : Nat) :
    Yields (SameShape s) (s.preset numerators den) :=
  yields_needBuffer (sameShape_complete s _) fun _ => convolveWith_sameShape s _ _ _

/-- Only DECODE, SETSHAPE and RELEASE change the shape (R26). -/
theorem exec_sameShape {i : Instr} (decode : i ≠ .decode) (setshape : i ≠ .setshape) (release : i ≠ .release)
    (s : State) : Yields (SameShape s) (exec i s) := by
  have failed : ∀ r, SameShape s (s.complete r) := sameShape_complete s
  cases i with
  | decode => exact absurd rfl decode
  | setshape => exact absurd rfl setshape
  | release => exact absurd rfl release
  | nop => exact yields_next (failed .ok)
  | encode =>
    refine yields_needBuffer (failed _) fun _ => ?_
    split
    · exact yields_next (failed _)
    · exact yields_next ⟨rfl, rfl, rfl, rfl, rfl⟩
  | negative => exact yields_needBuffer (failed _) fun _ => mapRaster_sameShape s _
  | grayscale =>
    exact yields_needBuffer (failed _) fun _ => yields_needChannels (failed _) (mapRaster_sameShape s _)
  | bright => exact yields_needBuffer (failed _) fun _ => mapRaster_sameShape s _
  | thresh =>
    exact yields_needBuffer (failed _) fun _ => yields_needChannels (failed _) (mapRaster_sameShape s _)
  | convolve =>
    refine yields_needBuffer (failed _) fun _ => ?_
    split
    · exact convolveWith_sameShape s _ _ _
    · exact yields_next (failed _)
  | boxblur => exact preset_sameShape s _ _
  | gauss => exact preset_sameShape s _ _
  | outline => exact preset_sameShape s _ _
  | emboss => exact preset_sameShape s _ _
  | sharpen => exact preset_sameShape s _ _
  | equalize =>
    refine yields_needBuffer (failed _) fun _ => ?_
    split <;> exact yields_next ⟨rfl, rfl, rfl, rfl, rfl⟩
  | histo => exact yields_needBuffer (failed _) fun _ => yields_next ⟨rfl, rfl, rfl, rfl, rfl⟩

/-- A performed word that leaves another shape was a DECODE, SETSHAPE or RELEASE that succeeded. -/
theorem perform_sameShape_or {s t : State} (h : s.perform = .next t) :
    SameShape s t ∨
      (t.result = .ok ∧ (decode s.ir = .ok .decode ∨ decode s.ir = .ok .setshape ∨ decode s.ir = .ok .release)) := by
  obtain ⟨i, decoded, executed⟩ | rfl := perform_cases h
  · obtain ⟨-, ⟨r, rfl⟩ | succeeded⟩ := (exec_ends i s).completed executed
    · exact .inl (sameShape_complete s r)
    · by_cases shaping : i = .decode ∨ i = .setshape ∨ i = .release
      · refine .inr ⟨succeeded, ?_⟩
        obtain rfl | rfl | rfl := shaping
        · exact .inl decoded
        · exact .inr (.inl decoded)
        · exact .inr (.inr decoded)
      · rw [not_or, not_or] at shaping
        obtain ⟨h1, h2, h3⟩ := shaping
        exact .inl (exec_sameShape h1 h2 h3 s t executed)
  · exact .inl (sameShape_complete s _)

/-! ## What a host access leaves -/

/-- `t` differs from `s` at most where the host can write or the bus answers. -/
def HostChanges (s t : State) : Prop :=
  t = { s with
    ir := t.ir
    irqen := t.irqen
    flen := t.flen
    argw := t.argw
    argh := t.argh
    argch := t.argch
    krows := t.krows
    kcols := t.kcols
    kdiv := t.kdiv
    kcoef := t.kcoef
    fb := t.fb
    rb := t.rb
    freeCount := t.freeCount
    busOut := t.busOut
    status := { t.status with bufvalid := s.status.bufvalid, hdrvalid := s.status.hdrvalid } }

theorem HostChanges.answerWrite {s t : State} (h : HostChanges s t) : HostChanges s t.answerWrite := by
  unfold HostChanges at h
  rw [h]
  rfl

theorem writeReg_hostChanges (s : State) (r : Reg) (v : Word) : HostChanges s (s.writeReg r v) := by
  cases r <;> rfl

theorem writeTarget_hostChanges (s : State) (t : Target) (n : AccessSize) (v : Word) :
    HostChanges s (s.writeTarget t n v) := by
  cases t with
  | reg r => exact writeReg_hostChanges s r v
  | hist => rfl
  | cdf => rfl
  | kcoef => rfl
  | bytes win => cases win <;> rfl

theorem access_hostChanges (s : State) (a : Access) : HostChanges s (s.access a) := by
  obtain ⟨addr, n, v, t, -, written⟩ | answered := access_cases s a
  · rw [written]
    exact (writeTarget_hostChanges s t n v).answerWrite
  · rw [answered]
    rfl

theorem access_sameShape (s : State) (a : Access) : SameShape s (s.access a) := by
  rw [access_hostChanges s a]
  exact ⟨rfl, rfl, rfl, rfl, rfl⟩

theorem access_result (s : State) (a : Access) : (s.access a).result = s.result := by
  rw [access_hostChanges s a]

end Sys2Proof.Machine

namespace Sys2Proof.Proofs

open Sys2Proof.Machine

/-- Settles O13: a command ends by failing, or by succeeding after changing only the fields that `Ends` lists. -/
theorem noCommandWritesTheHostsOperands : Obligations.NoCommandWritesTheHostsOperands := by
  intro i s t executed
  obtain ⟨r, -, failed⟩ | ⟨u, succeeded, frame⟩ := exec_ends i s
  · rw [failed] at executed
    cases executed
    simp
  · rw [succeeded] at executed
    cases executed
    rw [frame]
    simp

/-- Settles O15, by cases on what the step is. -/
theorem shapeChangesOnlyBySuccess : Obligations.ShapeChangesOnlyBySuccess := by
  intro s t next changed
  have other : ¬ SameShape s t := by
    rintro ⟨w, h, c, b, -⟩
    exact changed (by rw [w, h, c, b])
  obtain ⟨-, u, rfl, ⟨-, rfl⟩ | ⟨busy, performed⟩⟩ | ⟨a, rest, -, rfl⟩ | ⟨rest, agenda, -⟩ := step_cases next
  · exact absurd ⟨rfl, rfl, rfl, rfl, rfl⟩ other
  · obtain same | ⟨succeeded, decoded⟩ := perform_sameShape_or performed
    · exact absurd same other
    · obtain ⟨⟨idle, done⟩, -⟩ := (perform_ends _).completed performed
      exact .inr ⟨busy, idle, done, succeeded, decoded⟩
  · exact absurd (access_sameShape { s with agenda := rest } a) other
  · exact .inl (by rw [agenda]; rfl)

/-- Settles O16, by cases on what the step is. -/
theorem resultChangesOnlyAtCompletion : Obligations.ResultChangesOnlyAtCompletion := by
  intro s t next changed
  obtain ⟨-, u, rfl, ⟨-, rfl⟩ | ⟨busy, performed⟩⟩ | ⟨a, rest, -, rfl⟩ | ⟨rest, agenda, -⟩ := step_cases next
  · exact absurd rfl changed
  · exact .inr ⟨busy, ((perform_ends _).completed performed).1⟩
  · exact absurd (access_result { s with agenda := rest } a) changed
  · exact .inl (by rw [agenda]; rfl)

/-- Settles O8. -/
theorem placedWordRunsNext : Obligations.PlacedWordRunsNext := by
  intro s w i decoded
  have placed : tableWord 32 w.toNat = w := by
    unfold tableWord
    rw [Nat.mod_eq_of_lt w.isLt, BitVec.ofNat_toNat, BitVec.setWidth_eq]
  have turn : step (s.withFetchWord 32 w.toNat) =
      State.perform { s with ir := w, status := { s.status with busy := true } } := by
    rw [State.withFetchWord, placed]
    rfl
  rw [turn, State.perform]
  simp only [decoded]

/-- Settles O55: the step is `applyReset`, which sets each field. -/
theorem resetReachesTheResetState : Obligations.ResetReachesTheResetState := by
  intro s rest agenda
  have reset : step s = .next (State.applyReset { s with agenda := rest }) := by
    rw [step, agenda]
    rfl
  refine ⟨_, reset, ?_⟩
  simp [State.reset, Status.toWord, IrqEnable.toWord, State.irq]

end Sys2Proof.Proofs

/-! PROOFS. The host's accesses: the registers by their addresses, the bytes of an access, and what an access that the
busy rule allows answers and stores. -/

namespace Sys2Proof.Machine

open Sys2Proof.Claims

/-! ## An access the busy rule allows (R236) -/

theorem answers_of_located {s : State} {addr : Word} {n : AccessSize} {t : Target} (located : locate addr n = some t)
    (allowed : s.status.busy = false ∨ t.openToRead = true) : Answers s addr n (s.readTarget t n) := by
  have read : s.busRead addr n = s.answerRead (s.readTarget t n) :=
    allowed.elim (busRead_of_idle located) (busRead_of_open located)
  exact congrArg Host.Outcome.next read

theorem onBus_write_of_located {s : State} {addr : Word} {n : AccessSize} {t : Target} (located : locate addr n = some t)
    (allowed : s.status.busy = false ∨ t.openToWrite = true) (v : Word) :
    onBus s (.write addr n v) = .next (s.writeTarget t n v).answerWrite := by
  have write : s.busWrite addr n v = (s.writeTarget t n v).answerWrite :=
    allowed.elim (fun idle => busWrite_of_idle located idle) (fun opened => busWrite_of_open located opened)
  exact congrArg Host.Outcome.next write

/-! ## The registers by their addresses (10_state.md) -/

/-- The address of a register. -/
def Reg.addr : Reg → Word
  | .cmd => 0x00#32
  | .status => 0x04#32
  | .result => 0x08#32
  | .irqen => 0x0C#32
  | .width => 0x10#32
  | .height => 0x14#32
  | .channels => 0x18#32
  | .flen => 0x1C#32
  | .argw => 0x20#32
  | .argh => 0x24#32
  | .argch => 0x28#32
  | .krows => 0x2C#32
  | .kcols => 0x30#32
  | .kdiv => 0x34#32
  | .pixoff => 0x38#32
  | .datasize => 0x3C#32
  | .id => 0x40#32
  | .filecap => 0x44#32
  | .rastercap => 0x48#32
  | .kmaxr => 0x4C#32

theorem locate_reg (r : Reg) : locate r.addr .word = some (.reg r) := by
  cases r <;> rfl

theorem openToRead_of_mem {r : Reg} (h : r.addr ∈ openReads) : (Target.reg r).openToRead = true := by
  revert h
  cases r <;> decide

theorem openToWrite_of_mem {r : Reg} (h : r.addr ∈ openWrites) : (Target.reg r).openToWrite = true := by
  revert h
  cases r <;> decide

/-- The registers at which a write stores its word or is ignored: all but CMD and STATUS. -/
def plainRegs : List Reg :=
  [.result, .irqen, .width, .height, .channels, .flen, .argw, .argh, .argch, .krows, .kcols, .kdiv, .pixoff, .datasize,
   .id, .filecap, .rastercap, .kmaxr]

theorem registerReads_eq (s : State) :
    registerReads s = (.cmd :: .status :: plainRegs).map fun r => (r.addr, s.readReg r) := rfl

theorem clampLength_eq (v : Word) : clampLength v = if v.toNat ≤ 16777216 then v else 16777216#32 := by
  unfold clampLength Config.fileCap
  split
  · rw [Nat.min_eq_left ‹_›, BitVec.ofNat_toNat, BitVec.setWidth_eq]
  · rw [Nat.min_eq_right (by omega)]

theorem registerWrites_eq (s : State) (v : Word) :
    registerWrites s v = plainRegs.map fun r => (r.addr, s.writeReg r v) := by
  unfold registerWrites
  rw [← clampLength_eq]
  rfl

/-! ## The address map (R60, R67) -/

/-- The accesses that the statements call mapped are those that reach something. -/
theorem mapped_iff (addr : Word) (n : AccessSize) : Mapped addr n ↔ ∃ t, locate addr n = some t := by
  rw [← Option.ne_none_iff_exists', Ne, locate_eq_none_iff, byteTarget_eq_none_iff, wordTarget_eq_none_iff]
  unfold Mapped windows
  simp only [List.mem_cons, List.not_mem_nil, or_false, exists_eq_or_imp, exists_eq_left]
  cases n <;> simp [AccessSize.bytes] <;> omega

/-- A mapped access at an address of HIST, CDF, LUT or HDR8 writes nothing (R41, R42, R43). -/
theorem writeTarget_of_readOnly {addr : Word} {n : AccessSize} {t : Target} (located : locate addr n = some t)
    (readOnly : (0x400 ≤ addr.toNat ∧ addr.toNat < 0xD00) ∨ (0x5000 ≤ addr.toNat ∧ addr.toNat < 0x5436)) (s : State)
    (v : Word) : s.writeTarget t n v = s := by
  obtain ⟨-, byBytes | ⟨-, byWord⟩⟩ := locate_eq_some located
  · obtain ⟨win, k, rfl, address, -⟩ := byteTarget_eq_some byBytes
    cases win with
    | lut => rfl
    | hdr8 => rfl
    | fbuf =>
      simp only [ByteWindow.base] at address
      omega
    | rbuf =>
      simp only [ByteWindow.base] at address
      omega
  · obtain ⟨r, -, -, below⟩ | ⟨rfl, -⟩ | ⟨rfl, -⟩ | ⟨-, above, below⟩ := wordTarget_eq_some byWord
    · omega
    · rfl
    · rfl
    · omega

/-! ## The bytes of an access (R68) -/

theorem littleEndian_toNat (n : AccessSize) (f : Nat → Byte) :
    (littleEndian n f).toNat = leNat ((List.range n.bytes).map f) := by
  have bound := leNat_lt ((List.range n.bytes).map f)
  rw [List.length_map, List.length_range] at bound
  have width : 256 ^ n.bytes ≤ 2 ^ 32 := by cases n <;> decide
  rw [littleEndian, ← leNat_eq_sum, BitVec.toNat_ofNat, Nat.mod_eq_of_lt (by omega)]

theorem littleEndian_lt (n : AccessSize) (f : Nat → Byte) : (littleEndian n f).toNat < 256 ^ n.bytes := by
  have bound := leNat_lt ((List.range n.bytes).map f)
  rwa [List.length_map, List.length_range, ← littleEndian_toNat] at bound

theorem littleEndian_byte (n : AccessSize) (f : Nat → Byte) {j : Nat} (h : j < n.bytes) :
    BitVec.ofNat 8 ((littleEndian n f).toNat / 256 ^ j) = f j := by
  rw [littleEndian_toNat, leNat_byte (by simpa using h)]
  simp

/-- The bytes of a number, put together again. -/
theorem littleEndian_bytes (n : AccessSize) (v : Nat) :
    littleEndian n (fun j => BitVec.ofNat 8 (v / 256 ^ j)) = BitVec.ofNat 32 (v % 256 ^ n.bytes) := by
  have bytes : (List.range n.bytes).map (fun j => BitVec.ofNat 8 (v / 256 ^ j)) = leBytes n.bytes v := by
    refine List.ext_getElem (by simp) fun j hj _ => ?_
    have stored := leBytes_getElem? (n := n.bytes) (v := v) (j := j) (by simpa using hj)
    rw [(List.getElem?_eq_some_iff.1 stored).2, List.getElem_map, List.getElem_range]
  rw [littleEndian, ← leNat_eq_sum, bytes, leNat_leBytes]

/-- A read of a byte window answers the bytes that stand there, lowest address lowest. -/
theorem readTarget_bytes {s : State} {win : ByteWindow} {k : Nat} {n : AccessSize} {f : Nat → Byte}
    (bytes : ∀ j < n.bytes, s.windowByte win (k + j) j = f j) : s.readTarget (.bytes win k) n = littleEndian n f := by
  rw [littleEndian, ← leNat_eq_sum, State.readTarget]
  congr 2
  exact List.map_congr_left fun j hj => bytes j (List.mem_range.1 hj)

/-- An idle read of a byte window. -/
theorem answers_bytes {s : State} (idle : s.status.busy = false) (win : ByteWindow) {k : Nat} {n : AccessSize}
    {f : Nat → Byte} (aligned : k % n.bytes = 0) (inside : k + n.bytes ≤ win.size)
    (bytes : ∀ j < n.bytes, s.windowByte win (k + j) j = f j) :
    Answers s (BitVec.ofNat 32 (win.base + k)) n (littleEndian n f) := by
  rw [← readTarget_bytes bytes]
  exact answers_of_located (locate_bytes aligned inside) (.inl idle)

/-- An item of a memory after the bytes of a number are stored from index `k` on. -/
theorem Memory.item_write_leBytes (m : Memory 8) (k n v epoch base step a : Nat) :
    (m.write k (leBytes n v)).item epoch base step a =
      if k ≤ a ∧ a < k + n then BitVec.ofNat 8 (v / 256 ^ (a - k)) else m.item epoch base step a := by
  rw [Memory.item_write]
  simp only [leBytes_length]
  split
  · have stored := leBytes_getElem? (n := n) (v := v) (j := a - k) (by omega)
    exact (List.getElem?_eq_some_iff.1 stored).2
  · rfl

/-- The state after the host has written bytes of a byte window. -/
def State.storeBytes (s : State) (win : ByteWindow) (k : Nat) (n : AccessSize) (v : Word) : State :=
  (s.writeTarget (.bytes win k) n v).answerWrite

/-- An idle write of a byte window. -/
theorem onBus_write_bytes {s : State} (idle : s.status.busy = false) (win : ByteWindow) {k : Nat} {n : AccessSize}
    (aligned : k % n.bytes = 0) (inside : k + n.bytes ≤ win.size) (v : Word) :
    onBus s (.write (BitVec.ofNat 32 (win.base + k)) n v) = .next (s.storeBytes win k n v) :=
  onBus_write_of_located (locate_bytes aligned inside) (.inl idle) v

theorem fileByte_storeBytes (s : State) (k : Nat) (n : AccessSize) (v : Word) (a : Nat) :
    (s.storeBytes .fbuf k n v).fileByte a =
      if k ≤ a ∧ a < k + n.bytes then BitVec.ofNat 8 (v.toNat / 256 ^ (a - k)) else s.fileByte a :=
  Memory.item_write_leBytes s.fb k n.bytes v.toNat s.powerEpoch 0x10000000 1 a

theorem sample_storeBytes (s : State) (k : Nat) (n : AccessSize) (v : Word) (a : Nat) :
    (s.storeBytes .rbuf k n v).sample a =
      if k ≤ a ∧ a < k + n.bytes then BitVec.ofNat 8 (v.toNat / 256 ^ (a - k)) else s.sample a :=
  Memory.item_write_leBytes s.rb k n.bytes v.toNat s.powerEpoch 0x20000000 1 a

/-! ## The bits of STATUS and IRQEN (R23, R25) -/

theorem testBit_foldr_bit (flags : List Bool) (i : Nat) : (flags.foldr Nat.bit 0).testBit i = flags.getD i false := by
  induction flags generalizing i with
  | nil => simp
  | cons b flags ih =>
    cases i with
    | zero => simp
    | succ i => simp [Nat.testBit_bit_succ, ih]

/-- Bit `i` of a word of flags, the first in bit 0. -/
theorem getLsbD_flags {flags : List Bool} (fits : flags.length ≤ 32) (i : Nat) :
    (BitVec.ofNat 32 (flags.foldr Nat.bit 0)).getLsbD i = flags.getD i false := by
  rw [BitVec.getLsbD_ofNat, testBit_foldr_bit]
  by_cases h : i < 32
  · simp [h]
  · simp [h, List.getElem?_eq_none (show flags.length ≤ i by omega)]

theorem Status.getLsbD_toWord (t : Status) (i : Nat) :
    t.toWord.getLsbD i = [t.busy, t.done, t.errf, t.hzd, t.bufvalid, t.hdrvalid].getD i false := by
  rw [← getLsbD_flags (Nat.le_of_ble_eq_true rfl)]
  simp only [Status.toWord, List.foldr, Nat.bit_val]
  congr 2
  omega

theorem IrqEnable.getLsbD_toWord (e : IrqEnable) (i : Nat) :
    e.toWord.getLsbD i = [false, e.doneIe, e.errIe, e.hzdIe].getD i false := by
  rw [← getLsbD_flags (Nat.le_of_ble_eq_true rfl)]
  simp only [IrqEnable.toWord, List.foldr, Nat.bit_val, Bool.toNat_false]
  congr 2
  omega

end Sys2Proof.Machine

namespace Sys2Proof.Proofs

open Sys2Proof.Machine Sys2Proof.Claims

/-- Settles O44: CMD is open to no access of a busy engine, and an idle engine's write is `writeReg`. -/
theorem commandWriteAcceptsWhenIdle : Obligations.CommandWriteAcceptsWhenIdle := by
  refine fun s w => ⟨fun idle => onBus_write_of_located (locate_reg .cmd) (.inl idle) w, fun busy => ?_⟩
  exact congrArg Host.Outcome.next (busWrite_of_violation (locate_reg .cmd) busy rfl)

/-- Settles O45: the bits are `getLsbD_toWord`; STATUS is open to every access. -/
theorem statusReadsAndClears : Obligations.StatusReadsAndClears := by
  refine ⟨fun t => ⟨?_, fun i above => ?_⟩, fun s w => ⟨?_, ?_⟩⟩
  · simp only [Status.getLsbD_toWord]
    exact ⟨rfl, rfl, rfl, rfl, rfl, rfl⟩
  · rw [Status.getLsbD_toWord]
    exact List.getD_eq_default _ _ above
  · exact answers_of_located (locate_reg .status) (.inr rfl)
  · exact onBus_write_of_located (locate_reg .status) (.inr rfl) w

/-- Settles O46: the table of reads is `readReg` by address (`registerReads_eq`). -/
theorem registerReadsAnswer : Obligations.RegisterReadsAnswer := by
  refine ⟨rfl, fun e => ⟨?_, fun i unused => ?_⟩, fun s p hp allowed => ?_⟩
  · simp only [IrqEnable.getLsbD_toWord]
    exact ⟨rfl, rfl, rfl⟩
  · rw [IrqEnable.getLsbD_toWord]
    obtain rfl | above := unused
    · rfl
    · exact List.getD_eq_default _ _ above
  · rw [registerReads_eq, List.mem_map] at hp
    obtain ⟨r, -, rfl⟩ := hp
    exact answers_of_located (locate_reg r) (allowed.imp_right openToRead_of_mem)

/-- Settles O47: the table of writes is `writeReg` by address (`registerWrites_eq`). -/
theorem registerWritesStore : Obligations.RegisterWritesStore := by
  intro s v p hp allowed
  rw [registerWrites_eq, List.mem_map] at hp
  obtain ⟨r, -, rfl⟩ := hp
  exact onBus_write_of_located (locate_reg r) (allowed.imp_right openToWrite_of_mem) v

/-- Settles O50: what is stored is `fileByte_storeBytes`, and the read puts the same bytes together again. -/
theorem fileBufferAccessIsLittleEndian : Obligations.FileBufferAccessIsLittleEndian := by
  intro s k n v idle aligned inside
  have stored := fileByte_storeBytes s k n v
  have bytes : ∀ j < n.bytes, (s.storeBytes .fbuf k n v).fileByte (k + j) = BitVec.ofNat 8 (v.toNat / 256 ^ j) := by
    intro j hj
    rw [stored, if_pos (by omega), Nat.add_sub_cancel_left]
  refine ⟨s.storeBytes .fbuf k n v, onBus_write_bytes idle .fbuf aligned inside v, rfl, bytes, fun a outside => ?_, ?_⟩
  · rw [stored, if_neg (by omega)]
  · rw [← littleEndian_bytes]
    exact answers_bytes (s := s.storeBytes .fbuf k n v) idle .fbuf aligned inside bytes

/-- Settles O51: the samples written are inside the image, so the read answers them. -/
theorem rasterAccessIsLittleEndian : Obligations.RasterAccessIsLittleEndian := by
  intro s k n v shape idle aligned inImage
  have inside : k + n.bytes ≤ ByteWindow.rbuf.size := inImage.trans shape.nSamples_le
  have stored := sample_storeBytes s k n v
  have samples : ∀ j < n.bytes, (s.storeBytes .rbuf k n v).sample (k + j) = BitVec.ofNat 8 (v.toNat / 256 ^ j) := by
    intro j hj
    rw [stored, if_pos (by omega), Nat.add_sub_cancel_left]
  refine ⟨s.storeBytes .rbuf k n v, onBus_write_bytes idle .rbuf aligned inside v, rfl, samples,
    fun a outside => ?_, ?_⟩
  · rw [stored, if_neg (by omega)]
  · rw [← littleEndian_bytes]
    refine answers_bytes (s := s.storeBytes .rbuf k n v) idle .rbuf aligned inside fun j hj => ?_
    exact (if_pos (show k + j < s.nSamples by omega)).trans (samples j hj)

/-- Settles O52. -/
theorem kernelMemoryKeepsSixteenBits : Obligations.KernelMemoryKeepsSixteenBits := by
  intro s e v idle he
  have stored : ∀ a, (s.writeTarget (.kcoef e) .word v).kernelBits a =
      if a = e then v.setWidth 16 else s.kernelBits a := by
    intro a
    refine (Memory.item_write s.kcoef e [v.setWidth 16] s.powerEpoch 0x1000 4 a).trans ?_
    by_cases same : a = e
    · subst same
      simp
    · rw [dif_neg (by simp; omega), if_neg same]
      rfl
  have written := (stored e).trans (if_pos rfl)
  refine ⟨_, onBus_write_of_located (locate_kcoef he) (.inl idle) v, rfl, written,
    fun a ha => (stored a).trans (if_neg ha), ?_⟩
  rw [← written]
  exact answers_of_located (locate_kcoef he) (.inl idle)

/-- Settles O53: what such an access reaches is a read-only target. -/
theorem readOnlyWindowsIgnoreWrites : Obligations.ReadOnlyWindowsIgnoreWrites := by
  intro s addr n v idle mapped readOnly
  obtain ⟨t, located⟩ := (mapped_iff addr n).1 mapped
  rw [onBus_write_of_located located (.inl idle), writeTarget_of_readOnly located readOnly]
  rfl

/-- Settles O59: each window's access is located there, and reads its entry or its bytes. -/
theorem windowReadsAnswer : Obligations.WindowReadsAnswer := by
  intro s idle
  refine ⟨fun i hi => answers_of_located (locate_hist hi) (.inl idle),
    fun i hi => answers_of_located (locate_cdf hi) (.inl idle),
    fun e he => answers_of_located (locate_kcoef he) (.inl idle), fun k n aligned => ⟨?_, ?_, ?_, ?_⟩⟩
  · exact fun inside => answers_bytes idle .lut aligned inside fun _ _ => rfl
  · exact fun valid inside => answers_bytes idle .hdr8 aligned inside fun _ _ => if_pos valid
  · exact fun inside => answers_bytes idle .fbuf aligned inside fun _ _ => rfl
  · intro inside
    obtain ⟨inImage, inBuffer⟩ := le_min_iff.1 inside
    exact answers_bytes idle .rbuf aligned inBuffer fun j hj => if_pos (by omega)

/-- Settles O60: the value read is the little-endian number of the window's bytes, free ones or not. -/
theorem unspecifiedPlacesAnswerSomeValue : Obligations.UnspecifiedPlacesAnswerSomeValue := by
  intro s k n idle aligned
  refine ⟨fun _ inside => ⟨_, littleEndian_lt n _, answers_bytes idle .hdr8 aligned inside fun _ _ => rfl⟩,
    fun inside _ => ⟨⟨_, littleEndian_lt n _, fun j hj inImage => ?_,
      answers_bytes idle .rbuf aligned inside fun _ _ => rfl⟩, fun v => ?_⟩⟩
  · exact (littleEndian_byte n _ hj).trans (if_pos inImage)
  · exact ⟨s.storeBytes .rbuf k n v, onBus_write_bytes idle .rbuf aligned inside v, rfl,
      fun a _ => sample_storeBytes s k n v a⟩

end Sys2Proof.Proofs

/-! PROOFS. The machine's step by the head of its agenda, and what a list of events makes of BUSY and HZD: a host that
ends every command with its wait keeps HZD 0. -/

namespace Sys2Proof.Machine

/-! ## A step by the head of the agenda -/

theorem step_of_empty {s : State} (agenda : s.agenda = []) : step s = s.engineTurn := by
  rw [step, agenda]

theorem step_of_cons {s : State} {e : Event} {rest : List Event} (agenda : s.agenda = e :: rest) :
    step s = State.happen { s with agenda := rest } e := by
  rw [step, agenda]

theorem engineTurn_of_idle {s : State} (idle : s.status.busy = false) : s.engineTurn = .next s := by
  simp [State.engineTurn, idle]

theorem engineTurn_of_busy {s : State} (busy : s.status.busy = true) : s.engineTurn = s.perform := by
  simp [State.engineTurn, busy]

theorem perform_of_decoded {s : State} {i : Instr} (decoded : decode s.ir = .ok i) : s.perform = exec i s := by
  simp only [State.perform, decoded]

/-- Whatever the word in IR is, performing it lowers BUSY and leaves HZD and the agenda alone (R205). -/
theorem perform_completes (s : State) :
    ∃ t, s.perform = .next t ∧ t.agenda = s.agenda ∧ t.status.busy = false ∧ t.status.hzd = s.status.hzd := by
  obtain ⟨r, -, failed⟩ | ⟨u, succeeded, frame⟩ := perform_ends s
  · exact ⟨_, failed, rfl, rfl, rfl⟩
  · refine ⟨_, succeeded, ?_, rfl, ?_⟩ <;> rw [frame] <;> rfl

/-! ## Lists of events -/

theorem run_add_of_next {M : Host.Core} {j : Nat} {s t : M.State} (first : M.run j s = .next t) (k : Nat) :
    M.run (j + k) s = M.run k t := by
  induction j generalizing s with
  | zero =>
    cases first
    rw [Nat.zero_add]
  | succ j ih =>
    rw [Nat.succ_add]
    simp only [Host.Core.run] at first ⊢
    split at first
    · exact ih first
    · cases first
    · cases first

/-- The events `es`, first on the agenda with HZD 0 and BUSY as `before` says, all happen, and leave HZD 0 and BUSY as
`after` says. -/
def Runs (es : List Event) (before after : Bool) : Prop :=
  ∀ (s : State) (rest : List Event), s.agenda = es ++ rest → s.status.busy = before → s.status.hzd = false →
    ∃ t : State, Host.Core.run Sys2Proof.core es.length s = .next t ∧ t.agenda = rest ∧ t.status.busy = after ∧
      t.status.hzd = false

theorem runs_nil (b : Bool) : Runs [] b b :=
  fun s _ agenda busy hzd => ⟨s, rfl, agenda, busy, hzd⟩

theorem Runs.append {es fs : List Event} {a b c : Bool} (first : Runs es a b) (second : Runs fs b c) :
    Runs (es ++ fs) a c := by
  intro s rest agenda busy hzd
  obtain ⟨t, run, agenda', busy', hzd'⟩ := first s (fs ++ rest) (by rw [agenda, List.append_assoc]) busy hzd
  obtain ⟨u, run', final⟩ := second t rest agenda' busy' hzd'
  exact ⟨u, by rw [List.length_append, run_add_of_next run, run'], final⟩

theorem runs_flatMap {α : Type} {f : α → List Event} {b : Bool} {l : List α} (each : ∀ a ∈ l, Runs (f a) b b) :
    Runs (l.flatMap f) b b := by
  induction l with
  | nil => exact runs_nil b
  | cons a l ih =>
    rw [List.flatMap_cons]
    exact (each a List.mem_cons_self).append (ih fun x hx => each x (List.mem_cons_of_mem a hx))

theorem runs_forall {es : List Event} {b : Bool} (each : ∀ e ∈ es, Runs [e] b b) : Runs es b b := by
  have all := runs_flatMap (f := fun e => [e]) each
  rwa [List.flatMap_singleton'] at all

/-- One event, by what happens with the rest on the agenda. -/
theorem runs_singleton {e : Event} {before after : Bool}
    (happens : ∀ s : State, s.status.busy = before → s.status.hzd = false →
      ∃ t, s.happen e = .next t ∧ t.agenda = s.agenda ∧ t.status.busy = after ∧ t.status.hzd = false) :
    Runs [e] before after := by
  intro s rest agenda busy hzd
  obtain ⟨t, next, final⟩ := happens { s with agenda := rest } busy hzd
  exact ⟨t, run_succ_of_next Sys2Proof.core 0 s t ((step_of_cons agenda).trans next), final⟩

/-- The engine's turn ends with the engine idle, whether a command was in flight or not. -/
theorem runs_engine (b : Bool) : Runs [.engine] b false := by
  refine runs_singleton fun s busy hzd => ?_
  cases b with
  | false => exact ⟨s, engineTurn_of_idle busy, rfl, busy, hzd⟩
  | true =>
    obtain ⟨t, performed, agenda, idle, kept⟩ := perform_completes s
    exact ⟨t, (engineTurn_of_busy busy).trans performed, agenda, idle, kept.trans hzd⟩

/-! ## Accesses -/

theorem runs_access {a : Access} {before after : Bool}
    (flags : ∀ s : State, s.status.busy = before → s.status.hzd = false →
      (s.access a).status.busy = after ∧ (s.access a).status.hzd = false) : Runs [.access a] before after :=
  runs_singleton fun s busy hzd => ⟨s.access a, rfl, by rw [access_hostChanges s a], flags s busy hzd⟩

/-- STATUS is open to reads at any time (R236). -/
theorem runs_pollStatus (b : Bool) : Runs [pollStatus] b b := by
  refine runs_access fun s busy hzd => ?_
  have read : s.access (.read 4#32 .word) = s.answerRead s.status.toWord := busRead_of_open (locate_reg .status) rfl
  rw [read]
  exact ⟨busy, hzd⟩

/-- A `wait` (R96) ends with the engine idle and sets no HZD. -/
theorem runs_waitFor (polls : Nat) (b : Bool) : Runs (waitFor polls) b false := by
  have busyPolls : Runs (List.replicate polls pollStatus) b b := by
    refine runs_forall fun e he => ?_
    rw [List.eq_of_mem_replicate he]
    exact runs_pollStatus b
  exact busyPolls.append ((runs_engine b).append (runs_pollStatus false))

theorem runs_writeCommand (v : Word) : Runs [wr32 0 v] false true := by
  refine runs_access fun s idle hzd => ?_
  have write : s.access (.write 0#32 .word v) = (s.writeReg .cmd v).answerWrite :=
    busWrite_of_idle (locate_reg .cmd) idle
  rw [write]
  exact ⟨rfl, hzd⟩

theorem regAt_eq_cmd {e : Nat} (h : regAt e = some .cmd) : e = 0 := by
  unfold regAt at h
  split at h <;> cases h
  rfl

/-- CMD is reached at address 0 with 4 bytes only. -/
theorem locate_eq_cmd {addr : Word} {n : AccessSize} (h : locate addr n = some (.reg .cmd)) :
    addr = 0#32 ∧ n = .word := by
  obtain ⟨aligned, byBytes | ⟨rfl, byWord⟩⟩ := locate_eq_some h
  · obtain ⟨_, _, ⟨⟩, _⟩ := byteTarget_eq_some byBytes
  · obtain ⟨_, ⟨⟩, first, _⟩ | ⟨⟨⟩, _⟩ | ⟨⟨⟩, _⟩ | ⟨⟨⟩, _⟩ := wordTarget_eq_some byWord
    have zero := regAt_eq_cmd first
    simp only [AccessSize.bytes] at aligned
    exact ⟨BitVec.eq_of_toNat_eq (by rw [BitVec.toNat_ofNat]; omega), rfl⟩

/-- Only a write of CMD raises BUSY, and no write raises HZD. -/
theorem writeTarget_flags (s : State) {t : Target} (other : t ≠ .reg .cmd) (n : AccessSize) (v : Word) :
    (s.writeTarget t n v).status.busy = s.status.busy ∧
      (s.status.hzd = false → (s.writeTarget t n v).status.hzd = false) := by
  cases t with
  | reg r =>
    cases r with
    | cmd => exact absurd rfl other
    | status => exact ⟨rfl, fun clear => by simp [State.writeTarget, State.writeReg, clear]⟩
    | _ => exact ⟨rfl, id⟩
  | hist => exact ⟨rfl, id⟩
  | cdf => exact ⟨rfl, id⟩
  | kcoef => exact ⟨rfl, id⟩
  | bytes win => cases win <;> exact ⟨rfl, id⟩

/-- A write of an idle engine that does not reach CMD starts nothing and breaks no rule. -/
theorem runs_write {addr : Word} {n : AccessSize} (other : locate addr n ≠ some (.reg .cmd)) (v : Word) :
    Runs [.access (.write addr n v)] false false := by
  refine runs_access fun s idle hzd => ?_
  rw [State.access]
  cases located : locate addr n with
  | none =>
    rw [busWrite_of_error located]
    exact ⟨idle, hzd⟩
  | some t =>
    rw [busWrite_of_idle located idle]
    obtain ⟨busy, kept⟩ := writeTarget_flags s (fun same => other (located.trans (congrArg some same))) n v
    exact ⟨busy.trans idle, kept hzd⟩

theorem runs_read (addr : Word) (n : AccessSize) : Runs [.access (.read addr n)] false false := by
  refine runs_access fun s idle hzd => ?_
  rw [State.access]
  cases located : locate addr n with
  | none =>
    rw [busRead_of_error located]
    exact ⟨idle, hzd⟩
  | some t =>
    rw [busRead_of_idle located idle]
    exact ⟨idle, hzd⟩

/-! ## Host lines (R96, R97) -/

theorem runs_wr32 {a : Nat} (positive : 0 < a) (small : a < 2 ^ 32) (v : Word) : Runs [wr32 a v] false false := by
  refine runs_write (fun h => ?_) v
  have zero := congrArg BitVec.toNat (locate_eq_cmd h).1
  rw [BitVec.toNat_ofNat, BitVec.toNat_ofNat] at zero
  omega

/-- Byte writes reach no register, however far they go. -/
theorem runs_writeBytes (a : Nat) (bytes : List Byte) : Runs (writeBytes a bytes) false false := by
  induction bytes generalizing a with
  | nil => exact runs_nil false
  | cons b bytes ih =>
    have first : Runs [wr8 a b] false false := runs_write (fun h => by cases (locate_eq_cmd h).2) _
    exact first.append (ih (a + 1))

/-- Word writes that do not come round to address 0. -/
theorem runs_writeNumerators {a : Nat} (positive : 0 < a) {ks : List Int} (small : a + 4 * ks.length < 2 ^ 32) :
    Runs (writeNumerators a ks) false false := by
  induction ks generalizing a with
  | nil => exact runs_nil false
  | cons k ks ih =>
    rw [List.length_cons] at small
    exact (runs_wr32 positive (by omega) _).append (ih (by omega) (by omega))

/-- Every line that starts no command without waiting for it runs from an idle engine to an idle engine. -/
theorem runs_expand (polls : Nat) {line : HostLine} (waits : line.waitsForCommands = true) :
    Runs (line.expand polls) false false := by
  cases line with
  | wr n addr v =>
    have nonzero : addr ≠ 0#32 := by simpa [HostLine.waitsForCommands] using waits
    exact runs_write (fun h => nonzero (locate_eq_cmd h).1) v
  | rd n addr => exact runs_read addr n
  | wait => exact runs_waitFor polls false
  | command i => exact (runs_writeCommand (encode i)).append (runs_waitFor polls true)
  | file bytes => exact (runs_writeBytes _ bytes).append (runs_wr32 (by omega) (by omega) _)
  | raster samples => exact runs_writeBytes _ samples
  | kernel side div numerators =>
    have count : numerators.length ≤ 49 := of_decide_eq_true waits
    have shape : Runs [wr32 0x2C side, wr32 0x30 side, wr32 0x34 div] false false :=
      (runs_wr32 (by omega) (by omega) side).append
        ((runs_wr32 (by omega) (by omega) side).append (runs_wr32 (by omega) (by omega) div))
    exact shape.append (runs_writeNumerators (by omega) (by omega))

end Sys2Proof.Machine

namespace Sys2Proof.Proofs

open Sys2Proof.Machine Sys2Proof.Claims

/-- Settles O58: every line runs from idle to idle (`runs_expand`), so the whole program does. -/
theorem waitingHostNeverBreaksTheBusyRule : Obligations.WaitingHostNeverBreaksTheBusyRule := by
  intro polls lines s waits idle hzd agenda
  have program : Runs (hostProgram polls lines) false false := runs_flatMap fun l hl => runs_expand polls (waits l hl)
  obtain ⟨t, run, ended, idle', hzd'⟩ := program s [] (by rw [agenda, List.append_nil]) idle hzd
  exact ⟨t, run, idle', hzd', ended⟩

/-- Settles O49: an access that is not mapped is located nowhere (`mapped_iff`). -/
theorem accessErrorsChangeNothing : Obligations.AccessErrorsChangeNothing := by
  intro s addr n unmapped
  have nowhere : locate addr n = none := by
    rw [mapped_iff, ← Option.ne_none_iff_exists', not_not] at unmapped
    exact unmapped
  exact ⟨congrArg Host.Outcome.next (busRead_of_error nowhere),
    fun _ => congrArg Host.Outcome.next (busWrite_of_error nowhere)⟩

/-- Settles O7. -/
theorem stepPerformsTheDecodedCommand : Obligations.StepPerformsTheDecodedCommand := by
  intro s i busy decoded
  have turn : ∀ u : State, u.status = s.status → u.ir = s.ir → u.engineTurn = exec i u := fun u status ir => by
    rw [engineTurn_of_busy (status ▸ busy), perform_of_decoded (ir ▸ decoded)]
  exact ⟨fun agenda => (step_of_empty agenda).trans (turn s rfl rfl),
    fun rest agenda => (step_of_cons agenda).trans (turn { s with agenda := rest } rfl rfl)⟩

/-- Settles O9. -/
theorem idleEngineDoesNothing : Obligations.IdleEngineDoesNothing := by
  refine fun s idle => ⟨fun agenda => (step_of_empty agenda).trans (engineTurn_of_idle idle), fun rest agenda => ?_⟩
  exact (step_of_cons agenda).trans (engineTurn_of_idle (s := { s with agenda := rest }) idle)

end Sys2Proof.Proofs

/-! PROOFS. What each command can make of the state, said once for all 17 (R62), and the file reads of R72. -/

namespace Sys2Proof.Machine

/-- The commands whose success changes the samples and nothing else (41_point_ops.md, 42_convolution.md). -/
def rewritesRaster : Instr → Bool
  | .negative | .grayscale | .bright _ | .thresh _ => true
  | .convolve | .boxblur | .gauss | .outline | .emboss | .sharpen => true
  | _ => false

/-- Everything that performing a command on `s` can answer. -/
inductive Effect (s : State) : Instr → State → Prop where
  | onlyCompletes (i : Instr) (r : ResultCode) : Effect s i (s.complete r)
  | decode (f : DecodedFile) : Effect s .decode ((s.commitFile f).complete .ok)
  | encode (bytes : List Byte) (len : Word) :
    Effect s .encode (State.complete .ok { s with fb := s.fb.write 0 bytes, flen := len })
  | setshape (w h ch : Word) (samples : List Byte) :
    Effect s .setshape (State.complete .ok { s with
      width := w
      height := h
      channels := ch
      status := { s.status with bufvalid := true, hdrvalid := false }
      rb := s.rb.write 0 samples })
  | release :
    Effect s .release (State.complete .ok { s with
      width := 0#32
      height := 0#32
      channels := 0#32
      status := { s.status with bufvalid := false, hdrvalid := false } })
  | equalize (lut : List Nat) (samples : List Byte) :
    Effect s .equalize (((s.storeTables s.levels).storeRemap lut samples).complete .ok)
  | histo : Effect s .histo ((s.storeTables s.levels).complete .ok)
  | raster {i : Instr} (kind : rewritesRaster i = true) (samples : List Byte) :
    Effect s i ((s.storeRaster samples).complete .ok)

section
variable (s : State) {i : Instr}

/-- A command that stores samples once a buffer is there. -/
theorem effect_raster (kind : rewritesRaster i = true) (samples : List Byte) :
    Yields (Effect s i) (s.needBuffer (s.storeRaster samples).succeed) :=
  yields_needBuffer (.onlyCompletes i _) fun _ => yields_next (.raster kind samples)

/-- A command that stores samples once a buffer of `n` channels is there. -/
theorem effect_raster_ofChannels (kind : rewritesRaster i = true) (n : Nat) (samples : List Byte) :
    Yields (Effect s i) (s.needBuffer (s.needChannels n (s.storeRaster samples).succeed)) :=
  yields_needBuffer (.onlyCompletes i _) fun _ =>
    yields_needChannels (.onlyCompletes i _) (yields_next (.raster kind samples))

end

theorem exec_effect (i : Instr) (s : State) : Yields (Effect s i) (exec i s) := by
  cases i with
  | nop => exact yields_next (.onlyCompletes _ _)
  | decode =>
    simp only [exec, execDecode]
    split
    · exact yields_next (.onlyCompletes _ _)
    · exact yields_next (.decode _)
  | encode =>
    refine yields_needBuffer (.onlyCompletes _ _) fun _ => ?_
    split
    · exact yields_next (.onlyCompletes _ _)
    · exact yields_next (.encode _ _)
  | setshape =>
    simp only [exec, execSetshape]
    split
    · exact yields_next (.setshape _ _ _ _)
    · exact yields_next (.onlyCompletes _ _)
  | release => exact yields_next .release
  | negative => exact effect_raster s rfl _
  | grayscale => exact effect_raster_ofChannels s rfl 3 _
  | bright => exact effect_raster s rfl _
  | thresh => exact effect_raster_ofChannels s rfl 1 _
  | convolve =>
    refine yields_needBuffer (.onlyCompletes _ _) fun _ => ?_
    split
    · exact yields_next (.raster rfl _)
    · exact yields_next (.onlyCompletes _ _)
  | boxblur => exact effect_raster s rfl _
  | gauss => exact effect_raster s rfl _
  | outline => exact effect_raster s rfl _
  | emboss => exact effect_raster s rfl _
  | sharpen => exact effect_raster s rfl _
  | equalize =>
    refine yields_needBuffer (.onlyCompletes _ _) fun _ => ?_
    split <;> exact yields_next (.equalize _ _)
  | histo => exact yields_needBuffer (.onlyCompletes _ _) fun _ => yields_next .histo

/-! ## File reads (R72) -/

theorem fileRead_of_beyond {s : State} {off n : Nat} (h : s.fileLen < off + n) :
    s.fileRead off n = .error .ioError := by
  rw [State.fileRead, if_pos h]

theorem fileField_succ (s : State) (off n : Nat) :
    s.fileField off (n + 1) = (s.fileByte off).toNat + 256 * s.fileField (off + 1) n := by
  simp only [State.fileField, State.fileBytesAt, List.range_succ_eq_map, List.map_cons, List.map_map, leNat]
  congr 3
  exact List.map_congr_left fun k _ => by simp only [Function.comp]; congr 1; omega

@[simp] theorem fileField_zero (s : State) (off : Nat) : s.fileField off 0 = 0 := rfl

end Sys2Proof.Machine

namespace Sys2Proof.Proofs

open Sys2Proof.Machine

/-- Settles O14, by cases on the command's effect (`exec_effect`); for the shape it is `exec_sameShape`. -/
theorem eachMemoryHasItsWriters : Obligations.EachMemoryHasItsWriters := by
  intro i s t executed
  have shape := fun h1 h2 h3 => exec_sameShape (i := i) h1 h2 h3 s t executed
  cases exec_effect i s t executed with
  | raster kind =>
    refine ⟨by simp, by simp, by simp, by simp, ?_, shape⟩
    rintro (rfl | rfl | rfl | rfl) <;> cases kind
  | _ => exact ⟨by simp, by simp, by simp, by simp, by simp, shape⟩

/-- Settles O21: a field is its first byte and 256 times the field after it (`fileField_succ`). -/
theorem fileReadIsBoundedLittleEndian : Obligations.FileReadIsBoundedLittleEndian := by
  refine fun s off => ⟨fun n => fileRead_of_beyond, fun h => ?_, fun h => ?_, fun h => ?_⟩
  · simp [fileRead_of_le h, fileField_succ]
  · simp [fileRead_of_le h, fileField_succ]
  · rw [fileRead_of_le h]
    simp only [fileField_succ, fileField_zero, Nat.add_assoc, Nat.reduceAdd]
    congr 1
    omega

end Sys2Proof.Proofs

/-! PROOFS. The command word by its fields: what the decoder makes of every word, and which row of the opcode map covers
it. -/

namespace Sys2Proof

open Sys2Proof.Laws

/-! ## The fields of a word (R90) -/

theorem opcField_toNat (w : Word) : (opcField w).toNat = w.toNat % 256 := by
  rw [opcField, BitVec.extractLsb'_toNat, Nat.shiftRight_zero]

theorem rsvField_toNat (w : Word) : (rsvField w).toNat = w.toNat / 256 % 256 := by
  rw [rsvField, BitVec.extractLsb'_toNat, Nat.shiftRight_eq_div_pow]

theorem immField_toNat (w : Word) : (immField w).toNat = w.toNat / 65536 := by
  rw [immField, BitVec.extractLsb'_toNat, Nat.shiftRight_eq_div_pow]
  omega

/-- A word is its three fields put together. -/
theorem append_fields (w : Word) : immField w ++ (rsvField w ++ opcField w) = w := by
  have low : rsvField w ++ opcField w = w.extractLsb' 0 16 := BitVec.extractLsb'_append_extractLsb'_eq_extractLsb' rfl
  rw [low]
  exact (BitVec.extractLsb'_append_extractLsb'_eq_extractLsb' rfl).trans BitVec.extractLsb'_eq_self

theorem encode_of_fields {w : Word} {i : Instr} (rsv : rsvField w = 0#8) (opc : opcField w = i.opcode)
    (imm : immField w = i.immediate) : encode i = w := by
  rw [encode, ← rsv, ← opc, ← imm, append_fields]

theorem encode_fields (i : Instr) : EncodeFields.Statement i := fields_append i.immediate i.opcode

/-! ## Immediates (R91) -/

theorem immediateInRange_toInt (imm : BitVec 16) : immediateInRange imm.toInt = true := by
  have lower := imm.le_toInt
  have upper := imm.toInt_lt
  simp only [immediateInRange, Bool.and_eq_true, decide_eq_true_eq]
  omega

theorem toInt_ofInt_of_inRange {v : Int} (h : immediateInRange v = true) : (BitVec.ofInt 16 v).toInt = v := by
  simp only [immediateInRange, Bool.and_eq_true, decide_eq_true_eq] at h
  exact BitVec.toInt_ofInt_eq_self (by decide) h.1 (by omega)

/-! ## Operation codes (R92, R94) -/

/-- The two format-I operation codes. -/
abbrev TakesOperand (opc : BitVec 8) : Prop := opc = 0x12#8 ∨ opc = 0x13#8

/-- The four unused ranges of R94. -/
abbrev UnusedOpcode (n : Nat) : Prop :=
  (0x05 ≤ n ∧ n ≤ 0x0F) ∨ (0x14 ≤ n ∧ n ≤ 0x1F) ∨ (0x26 ≤ n ∧ n ≤ 0x2F) ∨ 0x32 ≤ n

theorem not_unusedOpcode (i : Instr) : ¬ UnusedOpcode i.opcode.toNat := by
  cases i with
  | bright => exact (by decide : ¬ UnusedOpcode 0x12)
  | thresh => exact (by decide : ¬ UnusedOpcode 0x13)
  | _ => decide

theorem takesOperand_or_immediate (i : Instr) : TakesOperand i.opcode ∨ i.immediate = 0#16 := by
  cases i with
  | bright => exact .inl (.inl rfl)
  | thresh => exact .inl (.inr rfl)
  | _ => exact .inr rfl

theorem wellFormed_of_not_takesOperand {i : Instr} (h : ¬ TakesOperand i.opcode) : i.wellFormed = true := by
  cases i with
  | bright => exact absurd (.inl rfl) h
  | thresh => exact absurd (.inr rfl) h
  | _ => rfl

/-! ## The decoder (R93) -/

/-- The illegal words of R94, by their fields. -/
def Illegal (w : Word) : Prop :=
  rsvField w ≠ 0#8 ∨ UnusedOpcode (opcField w).toNat ∨ (¬ TakesOperand (opcField w) ∧ immField w ≠ 0#16)

theorem not_illegal_of_fields {w : Word} {i : Instr} (rsv : rsvField w = 0#8) (opc : opcField w = i.opcode)
    (imm : TakesOperand i.opcode ∨ immField w = 0#16) : ¬ Illegal w := by
  rintro (h | h | ⟨format, h⟩)
  · exact h rsv
  · exact not_unusedOpcode i (opc ▸ h)
  · exact imm.elim (opc ▸ format) h

/-- What an answer of the decoder to `w` says of `w`: its fields are those of the command answered, or it is illegal. -/
def Explains (w : Word) : Except DecodeError Instr → Prop
  | .ok i => i.wellFormed = true ∧ rsvField w = 0#8 ∧ opcField w = i.opcode ∧ immField w = i.immediate
  | .error _ => Illegal w

theorem explains_formatN {w : Word} {i : Instr} (rsv : rsvField w = 0#8) (opc : (opcField w).toNat = i.opcode.toNat)
    (format : ¬ TakesOperand i.opcode) : Explains w (formatN (immField w) i) := by
  have opc := BitVec.eq_of_toNat_eq opc
  unfold formatN
  split
  · next imm =>
    have none : i.immediate = 0#16 := (takesOperand_or_immediate i).resolve_left format
    exact ⟨wellFormed_of_not_takesOperand format, rsv, opc, imm.trans none.symm⟩
  · next imm => exact .inr (.inr ⟨opc ▸ format, imm⟩)

/-- Every answer of the decoder is explained by the word's fields: one case for each arm of `decode`. -/
theorem explains_decode (w : Word) : Explains w (decode w) := by
  unfold decode
  split
  · next rsv => exact .inl rsv
  next rsv =>
  have rsv := not_not.mp rsv
  split
  case h_8 opc | h_9 opc =>
    exact ⟨immediateInRange_toInt _, rsv, BitVec.eq_of_toNat_eq opc, BitVec.ofInt_toInt.symm⟩
  case h_18 =>
    refine .inr (.inl ?_)
    unfold UnusedOpcode
    simp only [imp_false] at *
    omega
  all_goals
    next opc => exact explains_formatN rsv opc (by decide)

theorem decode_ok {w : Word} {i : Instr} (h : decode w = .ok i) :
    i.wellFormed = true ∧ rsvField w = 0#8 ∧ opcField w = i.opcode ∧ immField w = i.immediate := by
  have explained := explains_decode w
  rwa [h] at explained

theorem encode_of_decode {w : Word} {i : Instr} (h : decode w = .ok i) : encode i = w :=
  have ⟨_, rsv, opc, imm⟩ := decode_ok h
  encode_of_fields rsv opc imm

theorem decode_error_iff (w : Word) : (∃ e, decode w = .error e) ↔ Illegal w := by
  have explained := explains_decode w
  cases decoded : decode w with
  | error e => exact iff_of_true ⟨e, rfl⟩ (by rwa [decoded] at explained)
  | ok i =>
    obtain ⟨-, rsv, opc, imm⟩ := decode_ok decoded
    have legal : ¬ Illegal w := not_illegal_of_fields rsv opc (imm ▸ takesOperand_or_immediate i)
    exact iff_of_false (fun ⟨_, refused⟩ => nomatch refused) legal

/-- Decoding the word of a command: the operation code picks the command's arm, and the immediate field is its own. -/
theorem decode_encode {i : Instr} (wf : i.wellFormed = true) : decode (encode i) = .ok i := by
  obtain ⟨opc, rsv, imm⟩ := encode_fields i
  simp only [decode, opc, rsv, imm, ne_eq, not_true, if_false]
  cases i with
  | bright delta => exact congrArg (fun v => Except.ok (Instr.bright v)) (toInt_ofInt_of_inRange wf)
  | thresh t => exact congrArg (fun v => Except.ok (Instr.thresh v)) (toInt_ofInt_of_inRange wf)
  | _ => rfl

theorem decode_append_bright (imm : BitVec 16) : decode (imm ++ 0x0012#16) = .ok (.bright imm.toInt) := by
  have low : 0#8 ++ (Instr.bright imm.toInt).opcode = 0x0012#16 := by rw [Instr.opcode]; decide
  have word : encode (.bright imm.toInt) = imm ++ 0x0012#16 := by
    rw [encode, low, Instr.immediate, BitVec.ofInt_toInt]
  rw [← word]
  exact decode_encode (immediateInRange_toInt imm)

theorem decode_append_thresh (imm : BitVec 16) : decode (imm ++ 0x0013#16) = .ok (.thresh imm.toInt) := by
  have low : 0#8 ++ (Instr.thresh imm.toInt).opcode = 0x0013#16 := by rw [Instr.opcode]; decide
  have word : encode (.thresh imm.toInt) = imm ++ 0x0013#16 := by
    rw [encode, low, Instr.immediate, BitVec.ofInt_toInt]
  rw [← word]
  exact decode_encode (immediateInRange_toInt imm)

/-- The illegal words as R94 lists them, over the whole word. -/
theorem illegal_iff (w : Word) : Illegal w ↔
    (w >>> 8) &&& 0xFF#32 ≠ 0#32 ∨
      (0x05 ≤ w.toNat % 256 ∧ w.toNat % 256 ≤ 0x0F) ∨ (0x14 ≤ w.toNat % 256 ∧ w.toNat % 256 ≤ 0x1F) ∨
      (0x26 ≤ w.toNat % 256 ∧ w.toNat % 256 ≤ 0x2F) ∨ 0x32 ≤ w.toNat % 256 ∨
      (w.toNat % 256 ≠ 0x12 ∧ w.toNat % 256 ≠ 0x13 ∧ w >>> 16 ≠ 0#32) := by
  have rsv : (w >>> 8) &&& 0xFF#32 = 0#32 ↔ rsvField w = 0#8 := by
    simp only [← BitVec.toNat_inj, rsvField_toNat, BitVec.toNat_and, BitVec.toNat_ushiftRight, BitVec.toNat_ofNat,
      Nat.shiftRight_eq_div_pow]
    rw [show 0xFF % 2 ^ 32 = 2 ^ 8 - 1 from rfl, Nat.and_two_pow_sub_one_eq_mod]
  have imm : w >>> 16 = 0#32 ↔ immField w = 0#16 := by
    simp only [← BitVec.toNat_inj, immField_toNat, BitVec.toNat_ushiftRight, Nat.shiftRight_eq_div_pow]
    rfl
  have opc : TakesOperand (opcField w) ↔ w.toNat % 256 = 0x12 ∨ w.toNat % 256 = 0x13 := by
    simp only [TakesOperand, ← BitVec.toNat_inj, opcField_toNat]
    rfl
  simp only [Illegal, UnusedOpcode, ne_eq, rsv, imm, opc, opcField_toNat, not_or, or_assoc, and_assoc]

/-! ## The opcode map (R92) -/

/-- The row of a command: its operation code, over the low half of the word when the command takes an operand. -/
def Instr.row (i : Instr) : OpcodeRow :=
  ⟨i.mnemonic, i.opcode.setWidth 32, if TakesOperand i.opcode then 0xFFFF#32 else 0xFFFFFFFF#32⟩

/-- The commands in the order of R92's table, format I with some operand. -/
def tableCommands : List Instr :=
  [.nop, .decode, .encode, .setshape, .release, .negative, .grayscale, .bright 0, .thresh 0, .convolve, .boxblur,
   .gauss, .outline, .emboss, .sharpen, .equalize, .histo]

theorem opcodeRows_eq : opcodeRows = tableCommands.map Instr.row := by decide

theorem row_covers_iff (i : Instr) (w : Word) : i.row.covers w = true ↔
    rsvField w = 0#8 ∧ opcField w = i.opcode ∧ (TakesOperand i.opcode ∨ immField w = 0#16) := by
  have fits := i.opcode.isLt
  simp only [OpcodeRow.covers, Instr.row, beq_iff_eq]
  split
  · next takes =>
    have low : (w &&& 0xFFFF#32).toNat = w.toNat % 65536 := Nat.and_two_pow_sub_one_eq_mod w.toNat 16
    simp only [takes, true_or, and_true, ← BitVec.toNat_inj, low, rsvField_toNat, opcField_toNat,
      BitVec.toNat_setWidth, BitVec.toNat_ofNat]
    omega
  · next takes =>
    have all : w &&& 0xFFFFFFFF#32 = w := BitVec.and_allOnes
    simp only [takes, false_or, ← BitVec.toNat_inj, all, rsvField_toNat, opcField_toNat, immField_toNat,
      BitVec.toNat_setWidth, BitVec.toNat_ofNat]
    omega

theorem row_covers_of_decode {w : Word} {i : Instr} (h : decode w = .ok i) (k : Instr) :
    k.row.covers w = decide (i.opcode = k.opcode) := by
  obtain ⟨-, rsv, opc, imm⟩ := decode_ok h
  rw [Bool.eq_iff_iff, row_covers_iff, decide_eq_true_iff, opc, imm]
  exact ⟨fun ⟨_, same, _⟩ => same, fun same => ⟨rsv, same, same ▸ takesOperand_or_immediate i⟩⟩

theorem tableCommands_filter_opcode (i : Instr) :
    (tableCommands.filter fun k => decide (i.opcode = k.opcode)).map (·.mnemonic) = [i.mnemonic] := by
  cases i <;> rfl

theorem row_covers_of_illegal {w : Word} (h : Illegal w) (k : Instr) : k.row.covers w = false := by
  rw [Bool.eq_false_iff, ne_eq, row_covers_iff]
  exact fun ⟨rsv, opc, imm⟩ => not_illegal_of_fields rsv opc imm h

end Sys2Proof

namespace Sys2Proof.Machine

/-! ## The end of a command that fails (R206) -/

theorem complete_of_ne_ok (s : State) {r : ResultCode} (h : r ≠ .ok) :
    s.complete r = { s with result := r, status := Claims.errStatus s.status } := by
  have nonzero : (r != .ok) = true := bne_iff_ne.mpr h
  rw [State.complete, Status.completed, nonzero, Bool.or_true]

theorem perform_of_refused {s : State} {e : DecodeError} (refused : decode s.ir = .error e) :
    s.perform = .next { s with result := .illegalCommand, status := Claims.errStatus s.status } := by
  simp only [State.perform, refused, State.fail_eq, complete_of_ne_ok s (r := .illegalCommand) (by decide)]

end Sys2Proof.Machine

namespace Sys2Proof.Proofs

open Sys2Proof.Machine Sys2Proof.Claims

/-- Settles O1, by cases on the command (`decode_encode`). -/
theorem decodeOfEncodeIsIdentity : Obligations.DecodeOfEncodeIsIdentity :=
  fun _ => decode_encode

/-- Settles O2: the fields of the word are those of the command (`decode_ok`), and a word is its fields. -/
theorem encodeOfDecodeIsIdentity : Obligations.EncodeOfDecodeIsIdentity :=
  fun _ _ decoded => ⟨(decode_ok decoded).1, encode_of_decode decoded⟩

/-- Settles O3: the row of a command covers a word that decodes exactly when the operation codes agree, and covers no
illegal word. -/
theorem everyWordIsOneRowOrIllegal : Obligations.EveryWordIsOneRowOrIllegal := by
  intro w
  rw [opcodeRows_eq]
  cases decoded : decode w with
  | ok i =>
    simp only [List.filter_map, List.map_map, Function.comp_def, row_covers_of_decode decoded]
    exact tableCommands_filter_opcode i
  | error e =>
    have illegal := (decode_error_iff w).mp ⟨e, decoded⟩
    simp [row_covers_of_illegal illegal]

/-- Settles O4: which words are illegal is `decode_error_iff` and `illegal_iff`; the turn of a busy engine fails one. -/
theorem illegalWordsCompleteWithIllegalCommand : Obligations.IllegalWordsCompleteWithIllegalCommand := by
  refine ⟨fun w => (decode_error_iff w).trans (illegal_iff w), rfl, fun s e busy refused => ?_⟩
  have turn : ∀ u : State, u.status = s.status → u.ir = s.ir →
      u.engineTurn = .next { u with result := .illegalCommand, status := errStatus u.status } := fun u status ir => by
    rw [engineTurn_of_busy (status ▸ busy), perform_of_refused (ir ▸ refused)]
  exact ⟨fun agenda => (step_of_empty agenda).trans (turn s rfl rfl),
    fun rest agenda => (step_of_cons agenda).trans (turn { s with agenda := rest } rfl rfl)⟩

/-- Settles O6: the operand is `toInt` of the field, whose sign rule is written out. -/
theorem immediateIsSignExtended : Obligations.ImmediateIsSignExtended := by
  intro imm
  have signed : imm.toInt = if imm.toNat < 32768 then (imm.toNat : Int) else imm.toNat - 65536 := by
    rw [BitVec.toInt_eq_toNat_cond]
    split <;> split <;> omega
  rw [← signed]
  exact ⟨decode_append_bright imm, decode_append_thresh imm⟩

/-- Settles O5, by running the decoder on each word. -/
theorem writtenOutWordsDecode : Obligations.WrittenOutWordsDecode :=
  ⟨rfl, rfl, rfl, rfl, rfl, rfl, rfl, rfl, rfl, rfl⟩

end Sys2Proof.Proofs

/-! PROOFS. The codec (40_codec.md): what a file buffer that holds given bytes reads as, the tests of DECODE in their
order and the image it commits, the file that ENCODE leaves, and so the image that comes back. -/

namespace Sys2Proof.Machine

open Sys2Proof.Claims

/-! ## The row strides (R111) -/

theorem stride8_bounds (w : Nat) : stride8 w % 4 = 0 ∧ w ≤ stride8 w ∧ stride8 w < w + 4 := by
  unfold stride8
  omega

theorem pad24_eq (w : Nat) : pad24 w = if w % 4 = 0 then 0 else w % 4 := by
  unfold pad24
  split <;> omega

theorem stride24_bounds (w : Nat) : stride24 w % 4 = 0 ∧ 3 * w ≤ stride24 w ∧ stride24 w < 3 * w + 4 := by
  unfold stride24 pad24
  omega

/-! ## The bytes that a file buffer holds -/

/-- The file buffer holds `bytes` from index `off` on. -/
def HoldsAt (t : State) (off : Nat) (bytes : List Byte) : Prop :=
  t.fileBytesAt off bytes.length = bytes

theorem fileBytesAt_add (t : State) (off m n : Nat) :
    t.fileBytesAt off (m + n) = t.fileBytesAt off m ++ t.fileBytesAt (off + m) n := by
  simp [State.fileBytesAt, List.range_add, Nat.add_assoc]

theorem holdsAt_append (t : State) (off : Nat) (as bs : List Byte) :
    HoldsAt t off (as ++ bs) ↔ HoldsAt t off as ∧ HoldsAt t (off + as.length) bs := by
  unfold HoldsAt
  rw [List.length_append, fileBytesAt_add]
  exact ⟨fun h => List.append_inj h (by simp [State.fileBytesAt]), fun ⟨ha, hb⟩ => congrArg₂ (· ++ ·) ha hb⟩

theorem HoldsAt.fileByte {t : State} {off k : Nat} {bytes : List Byte} {b : Byte} (holds : HoldsAt t off bytes)
    (entry : bytes[k]? = some b) : t.fileByte (off + k) = b := by
  obtain ⟨inside, -⟩ := List.getElem?_eq_some_iff.mp entry
  rw [← holds, State.fileBytesAt, List.getElem?_map, List.getElem?_range inside] at entry
  exact Option.some.inj entry

/-- A field that was written little-endian reads back (R72, R73). -/
theorem HoldsAt.fileField {t : State} {off n v : Nat} (holds : HoldsAt t off (leBytes n v)) (fits : v < 256 ^ n) :
    t.fileField off n = v := by
  rw [HoldsAt, leBytes_length] at holds
  rw [State.fileField, holds, leNat_leBytes, Nat.mod_eq_of_lt fits]

/-- A regenerated header has the fields of R125's table. -/
theorem headerFields_of_holdsAt {t : State} {fileSize offset w h depth imageSize : Nat}
    (holds : HoldsAt t 0 (bmpHeader fileSize offset w h depth imageSize)) (size : fileSize < 2 ^ 32)
    (start : offset < 2 ^ 32) (width : w < 2 ^ 32) (height : h < 2 ^ 32) (bits : depth < 2 ^ 16)
    (image : imageSize < 2 ^ 32) : HeaderFields t fileSize offset w h depth imageSize := by
  simp only [bmpHeader, holdsAt_append, List.length_append, leBytes_length, Nat.reduceAdd, and_assoc] at holds
  obtain ⟨f0, f2, f6, f10, f14, f18, f22, f26, f28, f30, f34, f38, f42, f46, f50⟩ := holds
  exact ⟨f0.fileField (by decide), f2.fileField size, f6.fileField (by decide), f10.fileField start,
    f14.fileField (by decide), f18.fileField width, f22.fileField height, f26.fileField (by decide),
    f28.fileField bits, f30.fileField (by decide), f34.fileField image, f38.fileField (by decide),
    f42.fileField (by decide), f46.fileField (by decide), f50.fileField (by decide)⟩

/-! ## The tests of DECODE (R112 to R115) -/

theorem failsWith_of_decodeFile {s : State} {e : ResultCode} (refused : decodeFile s = .error e) :
    FailsWith .decode s e := by
  rw [FailsWith, exec, execDecode, refused, ← complete_of_ne_ok s (decodeFile_error_ne_ok refused)]
  rfl

theorem decodeFile_of_one_byte {s : State} (short : s.fileLen < 2) : decodeFile s = .error .ioError := by
  rw [decodeFile, fileRead_of_beyond short]

theorem decodeFile_of_two_bytes {s : State} (long : 2 ≤ s.fileLen) : decodeFile s =
    if s.fileField 0 2 ≠ 0x4D42 then .error .invalidSignature
    else if s.fileLen < 54 then .error .ioError
    else if formatSupported (s.fileField 28 2) (s.fileField 30 4) = false then .error .unsupportedFormat
    else decodeSized s (s.fileField 28 2) (widthField s) (heightField s) := by
  rw [decodeFile, fileRead_of_le long]
  rfl

theorem decodeSized_of_nonpositive {s : State} {depth : Nat} {w h : Int} (size : w ≤ 0 ∨ h ≤ 0) :
    decodeSized s depth w h = .error .unsupportedFormat := by
  rw [decodeSized, if_pos size]

theorem decodeSized_of_tooLarge {s : State} {depth : Nat} {w h : Int} (hw : 0 < w) (hh : 0 < h)
    (large : 16777216 < w * h * depthChannels depth) : decodeSized s depth w h = .error .capacityExceeded := by
  lift w to ℕ using hw.le
  lift h to ℕ using hh.le
  rw [decodeSized, if_neg (by omega), if_pos (by exact_mod_cast large)]

theorem decodeFile_of_sizeAccepted {s : State} {depth w h : Nat}
    (accepted : SizeAccepted s depth w h (depthChannels depth)) (supported : depth = 8 ∨ depth = 24) :
    decodeFile s = if depth = 8 then decode8 s w h else decode24 s w h := by
  obtain ⟨⟨long, sig, bits, compression⟩, width, height, ⟨hw, hh⟩, fits⟩ := accepted
  rw [decodeFile_of_header long ((signature_iff s).mpr sig)
    ((formatSupported_iff _ _).mpr ⟨by rwa [bits], compression⟩), bits]
  rw [← decodeSized_of_fit hw hh fits, ← width, ← height]
  rfl

theorem decode24_of_short {s : State} {w h : Nat} (short : s.fileLen < 54 + stride24 w * h) :
    decode24 s w h = .error .ioError := by
  simp only [decode24, if_pos short]

theorem decode24_of_long {s : State} {w h : Nat} (long : 54 + stride24 w * h ≤ s.fileLen) :
    decode24 s w h = .ok ⟨w, h, 3, s.fileField 10 4, stride24 w * h, raster24 s w h, none⟩ := by
  simp only [decode24, if_neg (not_lt.mpr long)]

/-- The three IoErrors of R117. -/
theorem decode8_of_short {s : State} {w h : Nat}
    (short : s.fileLen < 1078 ∨ dataSize8 (s.fileField 34 4) (stride8 w * h) < stride8 w * h ∨
      s.fileLen < 1078 + dataSize8 (s.fileField 34 4) (stride8 w * h)) : decode8 s w h = .error .ioError := by
  simp only [decode8]
  split_ifs
  · rfl
  · rfl
  · rfl
  · omega

theorem decode8_of_long {s : State} {w h : Nat}
    (size : stride8 w * h ≤ dataSize8 (s.fileField 34 4) (stride8 w * h))
    (long : 1078 + dataSize8 (s.fileField 34 4) (stride8 w * h) ≤ s.fileLen) :
    decode8 s w h = .ok ⟨w, h, 1, s.fileField 10 4, dataSize8 (s.fileField 34 4) (stride8 w * h), raster8 s w h,
      some (s.fileBytesAt 0 1078)⟩ := by
  simp only [decode8, if_neg (not_lt.mpr size), if_neg (not_lt.mpr long),
    if_neg (show ¬ s.fileLen < 1078 by omega)]

/-! ## The commit of DECODE (R118, R121) -/

theorem complete_ok (s : State) : s.complete .ok = { s with result := .ok, status := okStatus s.status } := by
  simp [State.complete, Status.completed]

theorem exec_decode_of_ok {s : State} {f : DecodedFile} (decoded : decodeFile s = .ok f) :
    exec .decode s = .next ((s.commitFile f).complete .ok) := by
  rw [exec, execDecode, decoded]
  rfl

/-- Sample (x, y, c) of a committed raster. -/
theorem sample_of_built {s : State} {f : DecodedFile} {w h ch : Nat} {px : Nat → Nat → Nat → Byte}
    (built : f.samples = buildRaster w h ch px) {x y c : Nat} (hx : x < w) (hy : y < h) (hc : c < ch) :
    ((s.commitFile f).complete .ok).sample ((y * w + x) * ch + c) = px x y c :=
  item_of_write (built ▸ buildRaster_getElem hx hy hc)

/-- Sample (x, y, c) of an 8-bit file (R119). -/
theorem sample_of_raster8 {s : State} {f : DecodedFile} {w h : Nat} (built : f.samples = raster8 s w h) {x y c : Nat}
    (hx : x < w) (hy : y < h) (hc : c < 1) : ((s.commitFile f).complete .ok).sample ((y * w + x) * 1 + c) =
      s.fileByte (1078 + (h - 1 - y) * stride8 w + x) :=
  sample_of_built built hx hy hc

/-- Sample (x, y, c) of a 24-bit file (R120). -/
theorem sample_of_raster24 {s : State} {f : DecodedFile} {w h : Nat} (built : f.samples = raster24 s w h) {x y c : Nat}
    (hx : x < w) (hy : y < h) (hc : c < 3) : ((s.commitFile f).complete .ok).sample ((y * w + x) * 3 + c) =
      s.fileByte (54 + (h - 1 - y) * stride24 w + 3 * x + (2 - c)) :=
  sample_of_built built hx hy hc

/-- The samples beyond a committed raster stay. -/
theorem sample_beyond_commit (s : State) (f : DecodedFile) {k : Nat} (beyond : f.samples.length ≤ k) :
    ((s.commitFile f).complete .ok).sample k = s.sample k :=
  (State.sample_write s f.samples ((s.commitFile f).complete .ok) rfl rfl k).trans (dif_neg (not_lt.mpr beyond))

/-- The captured header is the file's first 1078 bytes (R118). -/
theorem headerByte_of_captured {s : State} {f : DecodedFile} (captured : f.header = some (s.fileBytesAt 0 1078))
    {k : Nat} (inside : k < 1078) : ((s.commitFile f).complete .ok).headerByte k = s.fileByte k := by
  unfold State.headerByte
  rw [State.complete_hdr8, commitFile_hdr8_of_some captured]
  refine item_of_write ?_
  rw [State.fileBytesAt, List.getElem?_map, List.getElem?_range inside, Option.map_some, Nat.zero_add]

/-! ## The header bytes that DECODE does not examine (R114, R116) -/

/-- A byte that decides the outcome of DECODE when the depth is not 8: one of the signature, the dimensions, the depth,
the compression or the pixel data. -/
def ExaminedByte (k : Nat) : Prop :=
  k < 2 ∨ (18 ≤ k ∧ k < 26) ∨ (28 ≤ k ∧ k < 34) ∨ 54 ≤ k

section
variable {s s' : State} (frame : s' = { s with fb := s'.fb })
  (agree : ∀ k, ExaminedByte k → s'.fileByte k = s.fileByte k)
include agree

theorem fileField_of_agree {off n : Nat} (examined : ∀ k, off ≤ k → k < off + n → ExaminedByte k) :
    s'.fileField off n = s.fileField off n :=
  fileField_congr fun k lo hi => agree k (examined k lo hi)

theorem raster24_of_agree (w h : Nat) : raster24 s' w h = raster24 s w h := by
  unfold raster24
  congr 1
  funext x y c
  exact agree _ (by unfold ExaminedByte; omega)

include frame

theorem decode24_of_agree (w h : Nat) :
    decode24 s' w h = (decode24 s w h).map fun f => { f with pixoff := s'.fileField 10 4 } := by
  have len : s'.fileLen = s.fileLen := by rw [frame]; rfl
  by_cases short : s.fileLen < 54 + stride24 w * h
  · rw [decode24_of_short short, decode24_of_short (len ▸ short)]
    rfl
  · rw [not_lt] at short
    rw [decode24_of_long short, decode24_of_long (len ▸ short), raster24_of_agree agree]
    rfl

theorem decodeSized_of_agree {depth : Nat} (other : depth ≠ 8) (w h : Int) :
    decodeSized s' depth w h = (decodeSized s depth w h).map fun f => { f with pixoff := s'.fileField 10 4 } := by
  simp only [decodeSized, pixoffAccepted_eq, Bool.true_eq_false, other, if_false, decode24_of_agree frame agree]
  split_ifs <;> rfl

/-- DECODE answers the same code or the same file, but for the offset field. -/
theorem decodeFile_of_agree (depth : s.fileField 28 2 ≠ 8) :
    decodeFile s' = (decodeFile s).map fun f => { f with pixoff := s'.fileField 10 4 } := by
  have len : s'.fileLen = s.fileLen := by rw [frame]; rfl
  have same := fun off n => fileField_of_agree agree (off := off) (n := n)
  unfold ExaminedByte at same
  by_cases long : 2 ≤ s.fileLen
  · rw [decodeFile_of_two_bytes long, decodeFile_of_two_bytes (len ▸ long)]
    simp only [widthField, heightField, len, same 0 2 (by omega), same 18 4 (by omega), same 22 4 (by omega),
      same 28 2 (by omega), same 30 4 (by omega), decodeSized_of_agree frame agree depth]
    split_ifs <;> rfl
  · rw [not_le] at long
    rw [decodeFile_of_one_byte long, decodeFile_of_one_byte (len ▸ long)]
    rfl

end

/-! ## ENCODE (R123 to R129) -/

theorem encode_failsWith_of_empty {s : State} (empty : s.status.bufvalid = false) :
    FailsWith .encode s .emptyBuffer := by
  rw [FailsWith, exec, execEncode, State.needBuffer_of_empty empty, complete_of_ne_ok s (by decide)]

theorem encode_failsWith_of_tooLong {s : State} (loaded : s.status.bufvalid = true)
    (long : Config.fileCap < encodedLength s) : FailsWith .encode s .ioError := by
  rw [FailsWith, exec, execEncode, State.needBuffer_of_loaded loaded, if_pos long, State.fail_eq,
    complete_of_ne_ok s (by decide)]

theorem holdsAt_of_write {s t : State} {bytes : List Byte} (fb : t.fb = s.fb.write 0 bytes) : HoldsAt t 0 bytes := by
  refine List.ext_getElem (by simp [State.fileBytesAt]) fun k _ inside => ?_
  simp only [State.fileBytesAt, State.fileByte, List.getElem_map, List.getElem_range, Nat.zero_add, fb]
  exact item_of_write (List.getElem?_eq_getElem inside)

theorem fileByte_beyond_write {s t : State} {bytes : List Byte} {k : Nat} (fb : t.fb = s.fb.write 0 bytes)
    (epoch : t.powerEpoch = s.powerEpoch) (beyond : bytes.length ≤ k) : t.fileByte k = s.fileByte k := by
  rw [State.fileByte_write s bytes t fb epoch, dif_neg (not_lt.mpr beyond)]

/-- ENCODE of a file that fits leaves that file in the buffer (R127). -/
theorem exec_encode_of_fits {s : State} (loaded : s.status.bufvalid = true) (fits : encodedLength s ≤ Config.fileCap) :
    ∃ t, exec .encode s = .next t ∧ ChangesOnlyFile s t (encodedLength s) ∧ HoldsAt t 0 (encodedFile s) := by
  refine ⟨State.complete .ok { s with fb := s.fb.write 0 (encodedFile s), flen := BitVec.ofNat 32 (encodedLength s) },
    ?_, ⟨complete_ok _, fun k beyond => ?_⟩, holdsAt_of_write rfl⟩
  · rw [exec, execEncode, State.needBuffer_of_loaded loaded, if_neg (not_lt.mpr fits), State.succeed_eq]
  · exact fileByte_beyond_write (bytes := encodedFile s) rfl rfl (by simpa using beyond)

/-- A successful ENCODE had a file that fits. -/
theorem encode_ok {s t : State} (loaded : s.status.bufvalid = true) (ran : exec .encode s = .next t)
    (ok : t.result = .ok) : encodedLength s ≤ Config.fileCap ∧ ChangesOnlyFile s t (encodedLength s) ∧
      HoldsAt t 0 (encodedFile s) := by
  by_cases fits : encodedLength s ≤ Config.fileCap
  · obtain ⟨u, ran', left⟩ := exec_encode_of_fits loaded fits
    cases ran.symm.trans ran'
    exact ⟨fits, left⟩
  · cases ran.symm.trans (encode_failsWith_of_tooLong loaded (not_le.mp fits))
    cases ok

theorem encodedLength_of_three {s : State} (three : s.ch = 3) : encodedLength s = 54 + stride24 s.w * s.h :=
  if_pos three

theorem encodedLength_of_one {s : State} (one : s.ch = 1) : encodedLength s = 1078 + stride8 s.w * s.h :=
  if_neg (by omega)

/-- The two parts of a 24-bit file. -/
theorem holdsAt_file24 {s t : State} (three : s.ch = 3) (holds : HoldsAt t 0 (encodedFile s)) :
    HoldsAt t 0 (header24 s) ∧ HoldsAt t 54 (pixels24 s) := by
  rwa [encodedFile, if_pos three, holdsAt_append, header24_length] at holds

/-- The two parts of an 8-bit file. -/
theorem holdsAt_file8 {s t : State} (one : s.ch = 1) (holds : HoldsAt t 0 (encodedFile s)) :
    HoldsAt t 0 (header8 s) ∧ HoldsAt t 1078 (pixels8 s) := by
  rwa [encodedFile, if_neg (by omega), holdsAt_append, header8_length] at holds

section
variable {s t : State} {off r x c j : Nat}

theorem fileByte_of_pixels24 (holds : HoldsAt t off (pixels24 s)) (hr : r < s.h) (hx : x < s.w) (hc : c < 3) :
    t.fileByte (off + r * stride24 s.w + 3 * x + c) = s.pixelSample x (s.h - 1 - r) (2 - c) := by
  have row := (stride24_bounds s.w).2.1
  have entry := holds.fileByte (pixels24_getElem? hr (show 3 * x + c < stride24 s.w by omega))
  rwa [if_pos (by omega), show (3 * x + c) / 3 = x by omega, show (3 * x + c) % 3 = c by omega, ← Nat.add_assoc,
    ← Nat.add_assoc] at entry

theorem fileByte_of_padding24 (holds : HoldsAt t off (pixels24 s)) (hr : r < s.h) (past : 3 * s.w ≤ j)
    (inside : j < stride24 s.w) : t.fileByte (off + r * stride24 s.w + j) = 0#8 := by
  have entry := holds.fileByte (pixels24_getElem? hr inside)
  rwa [if_neg (not_lt.mpr past), ← Nat.add_assoc] at entry

theorem fileByte_of_pixels8 (holds : HoldsAt t off (pixels8 s)) (hr : r < s.h) (hx : x < s.w) :
    t.fileByte (off + r * stride8 s.w + x) = s.pixelSample x (s.h - 1 - r) 0 := by
  have entry := holds.fileByte (pixels8_getElem? hr (hx.trans_le (stride8_bounds s.w).2.1))
  rwa [if_pos hx, ← Nat.add_assoc] at entry

theorem fileByte_of_padding8 (holds : HoldsAt t off (pixels8 s)) (hr : r < s.h) (past : s.w ≤ j)
    (inside : j < stride8 s.w) : t.fileByte (off + r * stride8 s.w + j) = 0#8 := by
  have entry := holds.fileByte (pixels8_getElem? hr inside)
  rwa [if_neg (not_lt.mpr past), ← Nat.add_assoc] at entry

end

theorem headerFields_of_header24 {s t : State} (holds : HoldsAt t 0 (header24 s))
    (fits : 54 + stride24 s.w * s.h ≤ 16777216) :
    HeaderFields t (54 + stride24 s.w * s.h) 54 s.w s.h 24 (stride24 s.w * s.h) :=
  headerFields_of_holdsAt holds (by omega) (by decide) s.width.isLt s.height.isLt (by decide) (by omega)

/-- A captured header is written as it was captured (R126). -/
theorem fileByte_of_captured {s t : State} (valid : s.status.hdrvalid = true) (holds : HoldsAt t 0 (header8 s))
    {k : Nat} (inside : k < 1078) : t.fileByte k = s.headerByte k := by
  rw [header8, if_pos valid] at holds
  have entry := holds.fileByte (k := k) (b := s.headerByte k) (by simp [inside])
  rwa [Nat.zero_add] at entry

theorem fileField_of_captured {s t : State} (valid : s.status.hdrvalid = true) (holds : HoldsAt t 0 (header8 s))
    {off n : Nat} (inside : off + n ≤ 1078) : t.fileField off n = s.headerField off n :=
  fileField_congr fun _ _ hk => fileByte_of_captured valid holds (by omega)

/-- Without a captured header the header and the colour table are made anew (R126). -/
theorem holdsAt_regenerated {s t : State} (missing : s.status.hdrvalid = false) (holds : HoldsAt t 0 (header8 s)) :
    HoldsAt t 0 (bmpHeader (1078 + stride8 s.w * s.h) 1078 s.w s.h 8 (stride8 s.w * s.h)) ∧
      HoldsAt t 54 identityColourTable := by
  rwa [header8, if_neg (by simp [missing]), holdsAt_append, bmpHeader_length] at holds

theorem headerFields_of_header8 {s t : State} (missing : s.status.hdrvalid = false) (holds : HoldsAt t 0 (header8 s))
    (fits : 1078 + stride8 s.w * s.h ≤ 16777216) :
    HeaderFields t (1078 + stride8 s.w * s.h) 1078 s.w s.h 8 (stride8 s.w * s.h) :=
  headerFields_of_holdsAt (holdsAt_regenerated missing holds).1 (by omega) (by decide) s.width.isLt s.height.isLt
    (by decide) (by omega)

/-- Byte `j` of entry `i` of the identity colour table. -/
theorem fileByte_of_colourTable {t : State} (holds : HoldsAt t 54 identityColourTable) {i j : Nat} (hi : i < 256)
    (hj : j < 4) : t.fileByte (54 + 4 * i + j) = if j = 3 then 0#8 else BitVec.ofNat 8 i := by
  rw [Nat.add_assoc]
  apply holds.fileByte
  rw [identityColourTable, List.getElem?_map, List.getElem?_range (by omega), Option.map_some,
    show (4 * i + j) % 4 = j by omega, show (4 * i + j) / 4 = i by omega]

/-! ## DECODE of an encoded file (R130) -/

/-- DECODE of `t` gives back the shape and the samples of `s`. -/
def GivesBack (s t : State) : Prop :=
  ∃ u, exec .decode t = .next u ∧ u.result = .ok ∧ u.width = s.width ∧ u.height = s.height ∧
    u.channels = s.channels ∧ u.status.bufvalid = true ∧ u.status.hdrvalid = decide (s.ch = 1) ∧
    u.samples = s.samples

/-- Images of one shape whose samples agree place by place have the same samples. -/
theorem samples_eq_of_pixels {s u : State} (size : u.nSamples = s.w * s.h * s.ch) (loaded : s.status.bufvalid = true)
    (pixels : ∀ x < s.w, ∀ y < s.h, ∀ c < s.ch, u.sample ((y * s.w + x) * s.ch + c) = s.pixelSample x y c) :
    u.samples = s.samples := by
  rw [State.samples, State.samples, size, State.nSamples, if_pos loaded]
  refine List.map_congr_left fun k hk => ?_
  obtain ⟨hx, hy, hc, index⟩ := rasterIndex_split (List.mem_range.mp hk)
  have pixel := pixels _ hx _ hy _ hc
  rwa [State.pixelSample, index] at pixel

theorem givesBack_of_decoded {s t : State} {f : DecodedFile} (loaded : s.status.bufvalid = true)
    (decoded : decodeFile t = .ok f) (width : f.width = s.w) (height : f.height = s.h) (channels : f.channels = s.ch)
    (header : f.header.isSome = decide (s.ch = 1))
    (pixels : ∀ x < s.w, ∀ y < s.h, ∀ c < s.ch,
      ((t.commitFile f).complete .ok).sample ((y * s.w + x) * s.ch + c) = s.pixelSample x y c) : GivesBack s t := by
  have toWord : ∀ {n : Nat} {v : Word}, n = v.toNat → BitVec.ofNat 32 n = v := fun e => by
    rw [e, BitVec.ofNat_toNat, BitVec.setWidth_eq]
  have w := toWord width
  have h := toWord height
  have ch := toWord channels
  refine ⟨_, exec_decode_of_ok decoded, rfl, w, h, ch, rfl, header, samples_eq_of_pixels ?_ loaded pixels⟩
  show (BitVec.ofNat 32 f.width).toNat * (BitVec.ofNat 32 f.height).toNat * (BitVec.ofNat 32 f.channels).toNat = _
  rw [w, h, ch]
  rfl

theorem givesBack_of_file24 {s t : State} (loaded : s.status.bufvalid = true) (three : s.ch = 3)
    (accepted : SizeAccepted t 24 s.w s.h 3) (long : 54 + stride24 s.w * s.h ≤ t.fileLen)
    (holds : HoldsAt t 54 (pixels24 s)) : GivesBack s t := by
  have decoded : decodeFile t = decode24 t s.w s.h := decodeFile_of_sizeAccepted accepted (.inr rfl)
  refine givesBack_of_decoded loaded (decoded.trans (decode24_of_long long)) rfl rfl three.symm (by simp [three]) ?_
  rw [three]
  intro x hx y hy c hc
  rw [sample_of_raster24 rfl hx hy hc, fileByte_of_pixels24 holds (by omega) hx (by omega),
    show s.h - 1 - (s.h - 1 - y) = y by omega, show 2 - (2 - c) = c by omega]

theorem givesBack_of_file8 {s t : State} (loaded : s.status.bufvalid = true) (one : s.ch = 1)
    (accepted : SizeAccepted t 8 s.w s.h 1) (size : t.fileField 34 4 = 0 ∨ t.fileField 34 4 = stride8 s.w * s.h)
    (long : 1078 + stride8 s.w * s.h ≤ t.fileLen) (holds : HoldsAt t 1078 (pixels8 s)) : GivesBack s t := by
  have decoded : decodeFile t = decode8 t s.w s.h := decodeFile_of_sizeAccepted accepted (.inl rfl)
  have need : dataSize8 (t.fileField 34 4) (stride8 s.w * s.h) = stride8 s.w * s.h := by
    unfold dataSize8
    split <;> omega
  refine givesBack_of_decoded loaded (decoded.trans (decode8_of_long need.ge (need.symm ▸ long))) rfl rfl one.symm
    (by simp [one]) ?_
  rw [one]
  intro x hx y hy c hc
  rw [sample_of_raster8 rfl hx hy hc, fileByte_of_pixels8 holds (by omega) hx,
    show s.h - 1 - (s.h - 1 - y) = y by omega, Nat.lt_one_iff.mp hc]

/-- A file with the dimensions of a sound buffer is accepted: they are below 2^31, so their signed fields are
positive. -/
theorem sizeAccepted_of_shape {s t : State} {depth : Nat} (shape : s.ShapeOk) (loaded : s.status.bufvalid = true)
    (long : 54 ≤ t.fileLen) (sig : t.fileField 0 2 = 0x4D42) (bits : t.fileField 28 2 = depth)
    (compression : t.fileField 30 4 = 0) (width : t.fileField 18 4 = s.w) (height : t.fileField 22 4 = s.h) :
    SizeAccepted t depth s.w s.h s.ch := by
  obtain ⟨hw, hh, hch, fits⟩ := shape.loaded loaded
  have signed : ∀ n : Nat, n ≤ Config.rasterCap → (BitVec.ofNat 32 n).toInt = n := fun n small => by
    have bound : n < 2 ^ 31 := small.trans_lt (by decide)
    rw [BitVec.toInt_eq_toNat_cond, BitVec.toNat_ofNat, Nat.mod_eq_of_lt (by omega), if_pos (by omega)]
  have area : s.w * s.h ≤ Config.rasterCap := (Nat.le_mul_of_pos_right _ (by omega)).trans fits
  exact ⟨⟨long, (signature_iff t).mp sig, bits, compression⟩,
    width ▸ signed _ (width ▸ (Nat.le_mul_of_pos_right _ hh).trans area),
    height ▸ signed _ (height ▸ (Nat.le_mul_of_pos_left _ hw).trans area), ⟨hw, hh⟩, fits⟩

theorem sizeAccepted_of_headerFields {s t : State} {fileSize offset depth imageSize : Nat} (shape : s.ShapeOk)
    (loaded : s.status.bufvalid = true) (long : 54 ≤ t.fileLen)
    (fields : HeaderFields t fileSize offset s.w s.h depth imageSize) : SizeAccepted t depth s.w s.h s.ch := by
  obtain ⟨sig, -, -, -, -, width, height, -, bits, compression, -⟩ := fields
  exact sizeAccepted_of_shape shape loaded long sig bits compression width height

theorem sizeAccepted_of_captured {s t : State} (shape : s.ShapeOk) (captured : s.HeaderOk)
    (loaded : s.status.bufvalid = true) (long : 54 ≤ t.fileLen) (valid : s.status.hdrvalid = true)
    (holds : HoldsAt t 0 (header8 s)) : SizeAccepted t 8 s.w s.h s.ch := by
  have field : ∀ off n, off + n ≤ 1078 → t.fileField off n = s.headerField off n :=
    fun _ _ => fileField_of_captured valid holds
  exact sizeAccepted_of_shape shape loaded long ((field 0 2 (by decide)).trans (captured.signature valid))
    ((field 28 2 (by decide)).trans (captured.depth valid)) ((field 30 4 (by decide)).trans (captured.compression valid))
    ((field 18 4 (by decide)).trans (captured.width valid)) ((field 22 4 (by decide)).trans (captured.height valid))

theorem fileLen_of_changesOnlyFile {s t : State} {len : Nat} (frame : ChangesOnlyFile s t len)
    (fits : len ≤ Config.fileCap) : t.fileLen = len := by
  rw [frame.1]
  exact Nat.mod_eq_of_lt (fits.trans_lt (by decide))

end Sys2Proof.Machine

namespace Sys2Proof.Proofs

open Sys2Proof.Machine Sys2Proof.Claims

/-- Settles O20, from what the strides are (`stride8_bounds`, `stride24_bounds`, `pad24_eq`) and the listed values. -/
theorem stridesAreAlignedRows : Obligations.StridesAreAlignedRows := by
  refine ⟨stride8_bounds, fun w => ?_, pad24_eq, rfl, rfl⟩
  obtain ⟨aligned, holdsRow, short⟩ := stride24_bounds w
  exact ⟨aligned, holdsRow, short, rfl⟩

/-- Settles O22: each test of R112 is reached when the ones before it pass. -/
theorem decodeRejectsInOrder : Obligations.DecodeRejectsInOrder := by
  intro s bm format ch
  have header := fun long (sig : bm) (fmt : format) =>
    decodeFile_of_header (s := s) long ((signature_iff s).mpr sig) ((formatSupported_iff _ _).mpr fmt)
  refine ⟨fun short => failsWith_of_decodeFile ?_, fun long sig => failsWith_of_decodeFile ?_,
    fun long sig short => failsWith_of_decodeFile ?_, fun long sig fmt => failsWith_of_decodeFile ?_,
    fun long sig fmt size => failsWith_of_decodeFile ?_, fun long sig fmt hw hh large => failsWith_of_decodeFile ?_⟩
  · exact decodeFile_of_one_byte short
  · rw [decodeFile_of_two_bytes long, if_pos (mt (signature_iff s).mp sig)]
  · rw [decodeFile_of_two_bytes long, if_neg (not_not.mpr ((signature_iff s).mpr sig)), if_pos short]
  · rw [decodeFile_of_two_bytes (by omega), if_neg (not_not.mpr ((signature_iff s).mpr sig)), if_neg (not_lt.mpr long),
      if_pos (Bool.eq_false_iff.mpr (mt (formatSupported_iff _ _).mp fmt))]
  · exact (header long sig fmt).trans (decodeSized_of_nonpositive size)
  · refine (header long sig fmt).trans (decodeSized_of_tooLarge hw hh ?_)
    rwa [depthChannels, Nat.cast_ite]

/-- Settles O23: the rows are there or not (`decode24_of_short`, `decode24_of_long`), and the raster is committed. -/
theorem decodeReadsA24BitFile : Obligations.DecodeReadsA24BitFile := by
  intro s w h accepted
  have decoded : decodeFile s = decode24 s w h := decodeFile_of_sizeAccepted accepted (.inr rfl)
  refine ⟨fun short => failsWith_of_decodeFile (decoded.trans (decode24_of_short short)), fun long =>
    ⟨_, exec_decode_of_ok (decoded.trans (decode24_of_long long)), complete_ok _, fun x hx y hy => ?_, fun k hk => ?_⟩⟩
  · exact ⟨sample_of_raster24 rfl hx hy (c := 0) (by decide), sample_of_raster24 rfl hx hy (c := 1) (by decide),
      sample_of_raster24 rfl hx hy (c := 2) (by decide)⟩
  · exact sample_beyond_commit s _ (by simpa [raster24] using hk)

/-- Settles O24: the same for R117's tests (`decode8_of_short`, `decode8_of_long`), with the header captured. -/
theorem decodeReadsAn8BitFile : Obligations.DecodeReadsAn8BitFile := by
  intro s w h accepted need ds
  have decoded : decodeFile s = decode8 s w h := decodeFile_of_sizeAccepted accepted (.inl rfl)
  have fails := fun short => failsWith_of_decodeFile (decoded.trans (decode8_of_short short))
  refine ⟨fun h1 => fails (.inl h1), fun h2 => fails (.inr (.inl h2)), fun h3 => fails (.inr (.inr h3)), fun size long =>
    ⟨_, exec_decode_of_ok (decoded.trans (decode8_of_long size long)), complete_ok _,
      fun k => headerByte_of_captured rfl, fun x hx y hy => ?_, fun k hk => ?_⟩⟩
  · rw [← Nat.mul_one (y * w + x)]
    exact sample_of_raster8 rfl hx hy Nat.zero_lt_one
  · exact sample_beyond_commit s _ (by simpa [raster8] using hk)

/-- Settles O25: DECODE answers the same file or code but for the offset field (`decodeFile_of_agree`). -/
theorem decodeIgnoresOtherHeaderBytes : Obligations.DecodeIgnoresOtherHeaderBytes := by
  intro s s' frame depth agree
  have same := decodeFile_of_agree frame agree depth
  cases decoded : decodeFile s with
  | error e =>
    rw [decoded] at same
    refine ⟨_, _, failsWith_of_decodeFile decoded, failsWith_of_decodeFile same, ?_⟩
    rw [frame]
  | ok f =>
    rw [decoded] at same
    refine ⟨_, _, exec_decode_of_ok decoded, exec_decode_of_ok same, ?_⟩
    rw [frame]
    rfl

/-- Settles O26: the parts of the file that ENCODE leaves (`exec_encode_of_fits`, `holdsAt_file24`), read byte by byte. -/
theorem encodeWritesA24BitFile : Obligations.EncodeWritesA24BitFile := by
  refine fun s => ⟨encode_failsWith_of_empty, fun loaded three => ?_⟩
  have len := encodedLength_of_three three
  refine ⟨fun long => encode_failsWith_of_tooLong loaded (len ▸ long), fun fits => ?_⟩
  obtain ⟨t, ran, frame, holds⟩ := exec_encode_of_fits loaded (len ▸ fits)
  obtain ⟨header, pixels⟩ := holdsAt_file24 three holds
  exact ⟨t, ran, len ▸ frame, headerFields_of_header24 header fits, fun r hr =>
    ⟨fun x hx c hc => fileByte_of_pixels24 pixels hr hx hc, fun j => fileByte_of_padding24 pixels hr⟩⟩

/-- Settles O27: the same for `holdsAt_file8`, whose header was captured or is made anew. -/
theorem encodeWritesAn8BitFile : Obligations.EncodeWritesAn8BitFile := by
  intro s loaded one
  have len := encodedLength_of_one one
  refine ⟨fun long => encode_failsWith_of_tooLong loaded (len ▸ long), fun fits => ?_⟩
  obtain ⟨t, ran, frame, holds⟩ := exec_encode_of_fits loaded (len ▸ fits)
  obtain ⟨header, pixels⟩ := holdsAt_file8 one holds
  refine ⟨t, ran, len ▸ frame, fun valid k => fileByte_of_captured valid header, fun missing =>
    ⟨headerFields_of_header8 missing header fits, fun i hi => ?_⟩, fun r hr =>
    ⟨fun x hx => fileByte_of_pixels8 pixels hr hx, fun j => fileByte_of_padding8 pixels hr⟩⟩
  have entry := fun j => fileByte_of_colourTable (holdsAt_regenerated missing header).2 hi (j := j)
  exact ⟨entry 0 (by decide), entry 1 (by decide), entry 2 (by decide), entry 3 (by decide)⟩

/-- Settles O28: the encoded file is accepted with the buffer's own dimensions (`sizeAccepted_of_shape`), and each sample
is read from the place where it was written (`givesBack_of_file24`, `givesBack_of_file8`). -/
theorem decodeOfEncodedFileGivesTheImageBack : Obligations.DecodeOfEncodedFileGivesTheImageBack := by
  intro s t shape captured loaded ran ok back
  obtain ⟨fits, frame, holds⟩ := encode_ok loaded ran ok
  have len := fileLen_of_changesOnlyFile frame fits
  have len8 := fun one => len.trans (encodedLength_of_one one)
  have accepted8 : s.ch = 1 → s.status.hdrvalid = true → SizeAccepted t 8 s.w s.h 1 := fun one valid =>
    one ▸ sizeAccepted_of_captured shape captured loaded (by have := len8 one; omega) valid (holdsAt_file8 one holds).1
  have imageSize := fun one valid =>
    fileField_of_captured (off := 34) (n := 4) valid (holdsAt_file8 one holds).1 (by decide)
  refine ⟨fun three => ?_, fun one missing => ?_, fun one valid size => ?_, fun one valid larger => ?_⟩
  · obtain ⟨header, pixels⟩ := holdsAt_file24 three holds
    rw [encodedLength_of_three three] at fits len
    have fields := headerFields_of_header24 header fits
    have accepted : SizeAccepted t 24 s.w s.h 3 :=
      three ▸ sizeAccepted_of_headerFields shape loaded (by omega) fields
    refine ⟨givesBack_of_file24 loaded three accepted len.ge pixels, ?_⟩
    obtain ⟨u, decodes, changed, -⟩ := (decodeReadsA24BitFile t s.w s.h accepted).2 len.ge
    obtain ⟨-, -, -, offset, -⟩ := fields
    rw [offset] at changed
    exact ⟨u, decodes, by rw [changed], by rw [changed]⟩
  · obtain ⟨header, pixels⟩ := holdsAt_file8 one holds
    have fields := headerFields_of_header8 missing header (encodedLength_of_one one ▸ fits)
    have accepted : SizeAccepted t 8 s.w s.h 1 :=
      one ▸ sizeAccepted_of_headerFields shape loaded (by have := len8 one; omega) fields
    obtain ⟨-, -, -, -, -, -, -, -, -, -, image, -⟩ := fields
    exact givesBack_of_file8 loaded one accepted (.inr image) (len8 one).ge pixels
  · rw [← imageSize one valid] at size
    exact givesBack_of_file8 loaded one (accepted8 one valid) size (len8 one).ge (holdsAt_file8 one holds).2
  · obtain ⟨-, -, short, -⟩ := decodeReadsAn8BitFile t s.w s.h (accepted8 one valid)
    refine short ?_
    rw [imageSize one valid, if_neg (by omega), len8 one]
    exact Nat.add_lt_add_left larger 1078

end Sys2Proof.Proofs

/-! PROOFS. The point operations (41_point_ops.md): each is its guards and then a map of the samples, so each statement
comes down to what its sample function is. -/

namespace Sys2Proof.Machine

open Sys2Proof.Claims

/-! ## The guards (R140) and the map of the samples -/

section
variable {i : Instr} {s t : State} {n : Nat} {f : Nat → Byte} {body : Host.Outcome State Fault Refusal}

theorem failsWith_of_noBuffer (guarded : exec i s = s.needBuffer body) (empty : s.status.bufvalid = false) :
    FailsWith i s .emptyBuffer := by
  rw [FailsWith, guarded, State.needBuffer_of_empty empty, complete_of_ne_ok s (by decide)]

theorem failsWith_of_otherChannels (guarded : exec i s = s.needBuffer (s.needChannels n body))
    (loaded : s.status.bufvalid = true) (other : s.ch ≠ n) : FailsWith i s .shapeMismatch := by
  rw [FailsWith, guarded, State.needBuffer_of_loaded loaded, State.needChannels_of_ne other,
    complete_of_ne_ok s (by decide)]

theorem rewritesSamples_of_mapRaster (guarded : exec i s = s.needBuffer (s.mapRaster f))
    (loaded : s.status.bufvalid = true) : RewritesSamples i s f := by
  rw [State.needBuffer_of_loaded loaded] at guarded
  obtain ⟨t, completes, frame, samples⟩ := mapRaster_eq s f
  exact ⟨t, guarded.trans completes, frame.trans (complete_ok _), samples⟩

theorem rewritesSamples_of_channels (guarded : exec i s = s.needBuffer (s.needChannels n (s.mapRaster f)))
    (loaded : s.status.bufvalid = true) (channels : s.ch = n) : RewritesSamples i s f :=
  rewritesSamples_of_mapRaster (by rw [guarded, State.needChannels_of_eq channels]) loaded

/-- The state that a command which rewrites the samples answers is the one it describes. -/
theorem samples_of_rewritesSamples (rewrites : RewritesSamples i s f) (ran : exec i s = .next t) :
    ChangesOnlyRaster s t ∧ ∀ k, t.sample k = if k < s.nSamples then f k else s.sample k := by
  obtain ⟨u, ran', left⟩ := rewrites
  cases ran.symm.trans ran'
  exact left

/-- It has the shape of the image, which is in the frame, and every sample of the image rewritten. -/
theorem image_of_rewritesSamples (rewrites : RewritesSamples i s f) (ran : exec i s = .next t) :
    (t.status.bufvalid = s.status.bufvalid ∧ t.ch = s.ch ∧ t.nSamples = s.nSamples) ∧
      ∀ k < s.nSamples, t.sample k = f k := by
  obtain ⟨frame, samples⟩ := samples_of_rewritesSamples rewrites ran
  refine ⟨?_, fun k inside => (samples k).trans (if_pos inside)⟩
  rw [frame]
  exact ⟨rfl, rfl, rfl⟩

theorem samples_congr (size : t.nSamples = s.nSamples) (same : ∀ k < s.nSamples, t.sample k = s.sample k) :
    t.samples = s.samples := by
  rw [State.samples, State.samples, size]
  exact List.map_congr_left fun k inside => same k (List.mem_range.mp inside)

end

/-! ## The sample functions -/

theorem negativeSample_eq (v : Byte) : negativeSample v = 255#8 - v := by
  unfold negativeSample
  bv_omega

/-- The mean of three bytes is a byte, so every channel of pixel `p` gets it whole (R142). -/
theorem graySample_toNat (s : State) (p : Nat) {c : Nat} (hc : c < 3) : (graySample s (3 * p + c)).toNat =
    ((s.sample (3 * p)).toNat + (s.sample (3 * p + 1)).toNat + (s.sample (3 * p + 2)).toNat) / 3 := by
  rw [graySample, show (3 * p + c) / 3 = p by omega, BitVec.toNat_ofNat, Nat.mod_eq_of_lt]
  have := (s.sample (3 * p)).isLt
  have := (s.sample (3 * p + 1)).isLt
  have := (s.sample (3 * p + 2)).isLt
  omega

/-- The channels of one pixel get one gray. -/
theorem graySample_channel (s : State) (p : Nat) {c : Nat} (hc : c < 3) :
    graySample s (3 * p + c) = graySample s (3 * p) :=
  BitVec.eq_of_toNat_eq ((graySample_toNat s p hc).trans (graySample_toNat s p (c := 0) (by decide)).symm)

/-- R142: the mean of a pixel that is gray already is its gray, `(g+g+g) div 3 = g`. -/
theorem graySample_of_gray {s : State} {p c : Nat} {g : Byte} (hc : c < 3)
    (gray : ∀ d < 3, s.sample (3 * p + d) = g) : graySample s (3 * p + c) = g := by
  apply BitVec.eq_of_toNat_eq
  have first : s.sample (3 * p) = g := gray 0 (by decide)
  rw [graySample_toNat s p hc, first, gray 1 (by decide), gray 2 (by decide)]
  omega

theorem clampByte_eq (v : Int) : clampByte v = BitVec.ofNat 8 (min 255 (max 0 v).toNat) := by
  have value := clampByte_toNat v
  apply BitVec.eq_of_toNat_eq
  rw [BitVec.toNat_ofNat]
  unfold clamp at value
  split_ifs at value <;> omega

theorem clampByte_of_ge {v : Int} (h : 255 ≤ v) : clampByte v = 255#8 := by
  rw [clampByte_eq, show min 255 (max 0 v).toNat = 255 by omega]

theorem clampByte_of_le {v : Int} (h : v ≤ 0) : clampByte v = 0#8 := by
  rw [clampByte_eq, show min 255 (max 0 v).toNat = 0 by omega]

/-- A sample is in the range of the clamp. -/
theorem clampByte_toNat_self (v : Byte) : clampByte v.toNat = v := by
  have small := v.isLt
  rw [clampByte_eq, show min 255 (max 0 (v.toNat : Int)).toNat = v.toNat by omega, BitVec.ofNat_toNat,
    BitVec.setWidth_eq]

/-! ## What the four commands do to a loaded image (R141 to R144) -/

section
variable {s : State} (loaded : s.status.bufvalid = true)
include loaded

theorem negative_rewrites : RewritesSamples .negative s fun k => 255#8 - s.sample k := by
  simp only [← negativeSample_eq]
  exact rewritesSamples_of_mapRaster rfl loaded

theorem grayscale_rewrites (three : s.ch = 3) : RewritesSamples .grayscale s (graySample s) :=
  rewritesSamples_of_channels rfl loaded three

theorem bright_rewrites (delta : Int) :
    RewritesSamples (.bright delta) s fun k => clampByte ((s.sample k).toNat + delta) :=
  rewritesSamples_of_mapRaster rfl loaded

theorem thresh_rewrites (v : Int) (one : s.ch = 1) :
    RewritesSamples (.thresh v) s fun k => if v ≤ ((s.sample k).toNat : Int) then 255#8 else 0#8 :=
  rewritesSamples_of_channels rfl loaded one

/-- The samples of a 3-channel image are three for each pixel (R27). -/
theorem nSamples_of_three (three : s.ch = 3) : s.nSamples = 3 * s.total := by
  rw [State.nSamples, if_pos loaded, three, State.total, Nat.mul_comm]

end

end Sys2Proof.Machine

namespace Sys2Proof.Proofs

open Sys2Proof.Machine Sys2Proof.Claims

/-- Settles O29: the guard, the map of the samples (`negative_rewrites`), and `255 - (255 - v) = v` on every
sample. -/
theorem negativeComplementsEverySample : Obligations.NegativeComplementsEverySample := by
  refine ⟨by decide, fun s => failsWith_of_noBuffer rfl, fun s => negative_rewrites, fun s t u loaded ran again => ?_⟩
  obtain ⟨⟨valid, -, size⟩, negated⟩ := image_of_rewritesSamples (negative_rewrites loaded) ran
  obtain ⟨⟨-, -, size'⟩, restored⟩ := image_of_rewritesSamples (negative_rewrites (valid.trans loaded)) again
  refine samples_congr (size'.trans size) fun k inside => ?_
  rw [restored k (size ▸ inside), negated k inside, sub_sub_cancel]

/-- Settles O30: the guards, the map of the samples (`grayscale_rewrites`) with `graySample_toNat` for its value, and
`graySample_of_gray` on every sample of the second run. -/
theorem grayscaleAveragesEachPixel : Obligations.GrayscaleAveragesEachPixel := by
  refine ⟨by decide, fun s => failsWith_of_noBuffer rfl, fun s => failsWith_of_otherChannels rfl,
    fun s loaded three => ?_, fun s t u loaded three ran again => ?_⟩
  · have pixels := nSamples_of_three loaded three
    obtain ⟨t, ran, frame, samples⟩ := grayscale_rewrites loaded three
    refine ⟨t, ran, frame, fun p hp c hc => ?_, fun k beyond => (samples k).trans (if_neg (not_lt.mpr beyond))⟩
    rw [samples, if_pos (by omega), graySample_toNat s p hc]
  · have pixels := nSamples_of_three loaded three
    obtain ⟨⟨valid, channels, size⟩, grayed⟩ := image_of_rewritesSamples (grayscale_rewrites loaded three) ran
    obtain ⟨⟨-, -, size'⟩, regrayed⟩ :=
      image_of_rewritesSamples (grayscale_rewrites (valid.trans loaded) (channels.trans three)) again
    refine samples_congr size' fun k inside => ?_
    have gray : ∀ c < 3, t.sample (3 * (k / 3) + c) = graySample s (3 * (k / 3)) := fun c hc => by
      rw [grayed _ (by omega), graySample_channel s _ hc]
    have channel := Nat.mod_lt k (show 3 > 0 by decide)
    rw [regrayed k inside, ← Nat.div_add_mod k 3, graySample_of_gray channel gray, gray _ channel]

/-- Settles O31: the guard, and the clamped sum (`bright_rewrites`) at its two ends and at 0. -/
theorem brightAddsAndSaturates : Obligations.BrightAddsAndSaturates := by
  refine ⟨decode_append_bright, fun s delta => failsWith_of_noBuffer rfl, fun s delta loaded => ?_,
    fun s t delta loaded ran => ?_⟩
  · simp only [← clampByte_eq]
    exact bright_rewrites loaded delta
  · obtain ⟨-, samples⟩ := samples_of_rewritesSamples (bright_rewrites loaded delta) ran
    refine ⟨fun high k inside => ?_, fun low k inside => ?_, fun zero k => ?_⟩
    · rw [samples, if_pos inside, clampByte_of_ge (by omega)]
    · have := (s.sample k).isLt
      rw [samples, if_pos inside, clampByte_of_le (by omega)]
    · rw [samples, zero, add_zero, clampByte_toNat_self, ite_self]

/-- Settles O32: the guards, and the comparison (`thresh_rewrites`), whose answer is one from 0 down and one from 256
up because a sample is a byte. -/
theorem threshCompares : Obligations.ThreshCompares := by
  refine ⟨decode_append_thresh, fun s v => failsWith_of_noBuffer rfl, fun s v => failsWith_of_otherChannels rfl,
    fun s v loaded one => thresh_rewrites loaded v one, fun s t v loaded one ran => ?_⟩
  obtain ⟨-, compared⟩ := image_of_rewritesSamples (thresh_rewrites loaded v one) ran
  refine ⟨fun low k inside => (compared k inside).trans (if_pos (by omega)), fun high k inside => ?_⟩
  have := (s.sample k).isLt
  exact (compared k inside).trans (if_neg (by omega))

end Sys2Proof.Proofs

/-! PROOFS. The convolutions (42_convolution.md): the window sum of `convSample` is that of R153, and it depends only on the
kernel's own entries and on one channel of the image. -/

namespace Sys2Proof.Machine

open Sys2Proof.Claims

/-! ## The window sum (R153) and the sample it becomes -/

/-- The term of row `j`, column `i` in natural coordinates. -/
theorem convTerm_eq (s : State) (side : Nat) (num : Nat → Int) (x y c j i : Nat) :
    convTerm s side num x y c j i =
      if (side - 1) / 2 ≤ x + i ∧ x + i < s.w + (side - 1) / 2 ∧
          (side - 1) / 2 ≤ y + j ∧ y + j < s.h + (side - 1) / 2 then
        num (j * side + i) * ((s.pixelSample (x + i - (side - 1) / 2) (y + j - (side - 1) / 2) c).toNat : Int)
      else 0 := by
  unfold convTerm
  generalize (side - 1) / 2 = n
  refine if_ctx_congr (by omega) (fun inside => ?_) fun _ => rfl
  rw [show ((x : Int) + i - n).toNat = x + i - n by omega, show ((y : Int) + j - n).toNat = y + j - n by omega]

theorem convAcc_eq_windowSum (s : State) (side : Nat) (num : Nat → Int) (x y c : Nat) :
    convAcc s side num x y c = windowSum s side num x y c := by
  unfold convAcc
  simp only [convTerm_eq]
  rfl

/-- Two kernels with the same entries have the same window sum over two images of one shape that agree on the
channel. -/
theorem windowSum_congr {s s' : State} {side x y c : Nat} {num num' : Nat → Int} (width : s'.w = s.w)
    (height : s'.h = s.h) (kernel : ∀ e < side * side, num' e = num e)
    (agree : ∀ x < s.w, ∀ y < s.h, s'.pixelSample x y c = s.pixelSample x y c) :
    windowSum s' side num' x y c = windowSum s side num x y c := by
  refine Finset.sum_congr rfl fun j hj => Finset.sum_congr rfl fun i hi => ?_
  rw [Finset.mem_range] at hj hi
  have entry : num' (j * side + i) = num (j * side + i) := kernel _ <| by
    calc j * side + i < (j + 1) * side := by rw [Nat.succ_mul]; omega
      _ ≤ side * side := Nat.mul_le_mul_right side hj
  rw [width, height]
  refine if_ctx_congr Iff.rfl (fun inside => ?_) fun _ => rfl
  have pixel := agree (x + i - (side - 1) / 2) (by omega) (y + j - (side - 1) / 2) (by omega)
  rw [State.pixelSample, State.pixelSample, width] at pixel
  rw [entry, pixel]

theorem clampByte_round (num : Int) {den : Nat} (hd : 0 < den) : clampByte (round num den) = roundClamp num den := by
  unfold roundClamp
  split_ifs with h
  · exact clampByte_round_of_nonpos h hd
  · exact clampByte_round_of_pos (not_le.mp h) den

theorem convSample_eq (s : State) (side : Nat) (num : Nat → Int) {den : Nat} (hd : 0 < den) (x y c : Nat) :
    convSample s side num den x y c = roundClamp (windowSum s side num x y c) den := by
  rw [convSample, convAcc_eq_windowSum, clampByte_round _ hd]

theorem convSample_congr {s s' : State} {side x y c : Nat} {num num' : Nat → Int} (den : Nat) (width : s'.w = s.w)
    (height : s'.h = s.h) (kernel : ∀ e < side * side, num' e = num e)
    (agree : ∀ x < s.w, ∀ y < s.h, s'.pixelSample x y c = s.pixelSample x y c) :
    convSample s' side num' den x y c = convSample s side num den x y c := by
  rw [convSample, convSample, convAcc_eq_windowSum, convAcc_eq_windowSum, windowSum_congr width height kernel agree]

/-! ## CONVOLVE and the presets as convolutions (R151, R152, R155) -/

theorem convolves_of_exec {i : Instr} {s : State} {side den : Nat} {num : Nat → Int}
    (answers : exec i s = s.convolveWith side num den) (loaded : s.status.bufvalid = true) (hd : 0 < den) :
    Convolves i s side num den := by
  obtain ⟨t, ran, frame, image, beyond⟩ := convolveWith_eq s side num den
  refine ⟨t, answers.trans ran, frame.trans (complete_ok _), fun x hx y hy c hc => ?_, fun k hk => beyond k ?_⟩
  · rw [image x hx y hy c hc, convSample_eq s side num hd]
  · rwa [State.nSamples, if_pos loaded] at hk

/-- R151, with R5's KMAX. -/
theorem kernelValid_iff (s : State) : s.kernelValid = true ↔
    s.krows = s.kcols ∧ s.krows.toNat % 2 = 1 ∧ s.krows.toNat ≤ 7 ∧ 0 < s.kdiv.toNat := by
  have divisor : s.kdiv ≠ 0#16 ↔ 0 < s.kdiv.toNat := by bv_omega
  simp only [State.kernelValid, Bool.and_eq_true, decide_eq_true_iff, divisor, and_assoc]
  rfl

theorem exec_convolve_of_valid {s : State} (loaded : s.status.bufvalid = true) (valid : s.kernelValid = true) :
    exec .convolve s = s.convolveWith s.krows.toNat s.kernelNumerator s.kdiv.toNat :=
  (State.needBuffer_of_loaded loaded _).trans (if_pos valid)

theorem convolve_failsWith_of_invalid {s : State} (loaded : s.status.bufvalid = true)
    (invalid : ¬ s.kernelValid = true) : FailsWith .convolve s .invalidKernel := by
  rw [FailsWith, exec, execConvolve, State.needBuffer_of_loaded loaded, if_neg invalid, State.fail_eq,
    complete_of_ne_ok s (by decide)]

/-- R156 to R160: each command of `presets` runs the kernel and the divisor that stand beside it. -/
theorem exec_preset : ∀ p ∈ presets, ∀ s : State, exec p.1 s = s.preset p.2.1 p.2.2 := by
  simp only [presets, List.forall_mem_cons]
  exact ⟨fun _ => rfl, fun _ => rfl, fun _ => rfl, fun _ => rfl, fun _ => rfl, nofun⟩

theorem presets_divisor : ∀ p ∈ presets, 0 < p.2.2 ∧ p.2.2 < 2 ^ 16 := by decide

/-! ## A preset's kernel loaded in the registers (R155) -/

/-- A raster is built from the values inside the image only. -/
theorem buildRaster_congr {w h ch : Nat} {f g : Nat → Nat → Nat → Byte}
    (same : ∀ x < w, ∀ y < h, ∀ c < ch, f x y c = g x y c) : buildRaster w h ch f = buildRaster w h ch g := by
  refine List.map_congr_left fun k hk => ?_
  obtain ⟨hx, hy, hc, -⟩ := rasterIndex_split (List.mem_range.mp hk)
  exact same _ hx _ hy _ hc

/-- `s` with the 3x3 kernel of coefficients `kcoef` and divisor `den` in the kernel registers. -/
def State.loadKernel3 (s : State) (den : Nat) (kcoef : Memory 16) : State :=
  { s with krows := 3#32, kcols := 3#32, kdiv := BitVec.ofNat 16 den, kcoef := kcoef }

section
variable {s : State} {den : Nat} {kcoef : Memory 16} (small : den < 2 ^ 16)
include small

theorem loadKernel3_kdiv : (s.loadKernel3 den kcoef).kdiv.toNat = den := Nat.mod_eq_of_lt small

theorem loadKernel3_valid (nonzero : 0 < den) : (s.loadKernel3 den kcoef).kernelValid = true :=
  (kernelValid_iff _).mpr ⟨rfl, (rfl : 3 % 2 = 1), (by decide : 3 ≤ 7), by rwa [loadKernel3_kdiv small]⟩

/-- CONVOLVE with a loaded kernel whose entries are `kernel`: the raster is that of the kernel on `s`. -/
theorem exec_convolve_loadKernel3 {kernel : List Int} (nonzero : 0 < den) (loaded : s.status.bufvalid = true)
    (entries : ∀ e < 9, (s.loadKernel3 den kcoef).kernelNumerator e = kernel.getD e 0) :
    exec .convolve (s.loadKernel3 den kcoef) = ((s.loadKernel3 den kcoef).storeRaster
      (buildRaster s.w s.h s.ch (convSample s 3 (fun e => kernel.getD e 0) den))).succeed := by
  have ran := exec_convolve_of_valid (s := s.loadKernel3 den kcoef) loaded (loadKernel3_valid small nonzero)
  rw [loadKernel3_kdiv small] at ran
  refine ran.trans (congrArg (fun samples => ((s.loadKernel3 den kcoef).storeRaster samples).succeed) ?_)
  exact buildRaster_congr fun x _ y _ c _ => convSample_congr den rfl rfl entries fun _ _ _ _ => rfl

theorem preset_eq_convolve_loadKernel3 {kernel : List Int} (nonzero : 0 < den)
    (entries : ∀ e < 9, (s.loadKernel3 den kcoef).kernelNumerator e = kernel.getD e 0) :
    ∃ t t', s.preset kernel den = .next t ∧ exec .convolve (s.loadKernel3 den kcoef) = .next t' ∧
      t = { t' with krows := s.krows, kcols := s.kcols, kdiv := s.kdiv, kcoef := s.kcoef } := by
  cases loaded : s.status.bufvalid
  case false =>
    exact ⟨_, _, State.needBuffer_of_empty loaded _,
      State.needBuffer_of_empty (s := s.loadKernel3 den kcoef) loaded _, rfl⟩
  case true =>
    exact ⟨_, _, State.needBuffer_of_loaded loaded _, exec_convolve_loadKernel3 small nonzero loaded entries, rfl⟩

end

/-! ## The channels apart (R154) -/

theorem pixelSample_of_convolveWith {s t : State} {side den : Nat} {num : Nat → Int}
    (ran : s.convolveWith side num den = .next t) {x y c : Nat} (hx : x < s.w) (hy : y < s.h) (hc : c < s.ch) :
    t.pixelSample x y c = convSample s side num den x y c := by
  obtain ⟨width, -, channels, -⟩ := convolveWith_sameShape s side num den t ran
  obtain ⟨u, ran', -, image, -⟩ := convolveWith_eq s side num den
  cases ran.symm.trans ran'
  rw [State.pixelSample, State.w, State.ch, width, channels]
  exact image x hx y hy c hc

/-- The states that two outcomes answer agree on channel `c` of an image of `s`'s size. -/
def AgreeOnChannel (s : State) (c : Nat) (o o' : Host.Outcome State Fault Refusal) : Prop :=
  ∀ t t', o = .next t → o' = .next t' → ∀ x < s.w, ∀ y < s.h, t'.pixelSample x y c = t.pixelSample x y c

section
variable {s : State} {rb : Memory 8} {c : Nat}
  (agree : ∀ x < s.w, ∀ y < s.h, State.pixelSample { s with rb := rb } x y c = s.pixelSample x y c)
include agree

theorem agreeOnChannel_fail (r : ResultCode) : AgreeOnChannel s c (s.fail r) (State.fail r { s with rb := rb }) := by
  rintro _ _ ⟨⟩ ⟨⟩
  exact agree

theorem agreeOnChannel_needBuffer {o o' : Host.Outcome State Fault Refusal} (body : AgreeOnChannel s c o o') :
    AgreeOnChannel s c (s.needBuffer o) (State.needBuffer { s with rb := rb } o') := by
  unfold State.needBuffer
  cases s.status.bufvalid
  · exact agreeOnChannel_fail agree _
  · exact body

variable (inside : c < s.ch)
include inside

theorem agreeOnChannel_convolveWith (side : Nat) (num : Nat → Int) (den : Nat) :
    AgreeOnChannel s c (s.convolveWith side num den) (State.convolveWith { s with rb := rb } side num den) := by
  intro t t' ran ran' x hx y hy
  rw [pixelSample_of_convolveWith ran hx hy inside, pixelSample_of_convolveWith ran' hx hy inside]
  exact convSample_congr den rfl rfl (fun _ _ => rfl) agree

theorem agreeOnChannel_preset (kernel : List Int) (den : Nat) :
    AgreeOnChannel s c (s.preset kernel den) (State.preset { s with rb := rb } kernel den) :=
  agreeOnChannel_needBuffer agree (agreeOnChannel_convolveWith agree inside _ _ _)

theorem agreeOnChannel_convolve :
    AgreeOnChannel s c (exec .convolve s) (exec .convolve { s with rb := rb }) := by
  refine agreeOnChannel_needBuffer agree ?_
  have sameTest : State.kernelValid { s with rb := rb } = s.kernelValid := rfl
  rw [sameTest]
  split
  · exact agreeOnChannel_convolveWith agree inside _ _ _
  · exact agreeOnChannel_fail agree _

end

end Sys2Proof.Machine

namespace Sys2Proof.Proofs

open Sys2Proof.Machine Sys2Proof.Claims

/-- Settles O35: the guards, then `convolves_of_exec`; the tests of the kernel are those of `kernelValid_iff`. -/
theorem convolveTakesTheWindowSum : Obligations.ConvolveTakesTheWindowSum := by
  refine ⟨by decide, fun s => failsWith_of_noBuffer rfl, fun s loaded bad => ?_,
    fun s loaded square odd small divisor => ?_⟩
  · refine convolve_failsWith_of_invalid loaded fun valid => ?_
    obtain ⟨square, odd, small, divisor⟩ := (kernelValid_iff s).mp valid
    obtain other | even | large | zero := bad
    · exact other square
    all_goals omega
  · have valid := (kernelValid_iff s).mpr ⟨square, odd, small, divisor⟩
    exact convolves_of_exec (exec_convolve_of_valid loaded valid) loaded divisor

/-- Settles O36: a preset is `State.preset` with its row of `presets`, and so `convolves_of_exec`. -/
theorem presetsTakeTheirFixedKernels : Obligations.PresetsTakeTheirFixedKernels := by
  refine fun p hp s => ⟨failsWith_of_noBuffer (exec_preset p hp s), fun loaded => ?_⟩
  obtain ⟨nonzero, -⟩ := presets_divisor p hp
  exact convolves_of_exec ((exec_preset p hp s).trans (State.needBuffer_of_loaded loaded _)) loaded nonzero

/-- Settles O37: the second state is the first with the kernel loaded, so `preset_eq_convolve_loadKernel3`. -/
theorem presetIsConvolveWithItsKernel : Obligations.PresetIsConvolveWithItsKernel := by
  intro p hp s s' differ entries
  obtain ⟨nonzero, small⟩ := presets_divisor p hp
  obtain ⟨kcoef, rfl⟩ : ∃ kcoef, s' = s.loadKernel3 p.2.2 kcoef := ⟨_, differ⟩
  rw [exec_preset p hp]
  exact preset_eq_convolve_loadKernel3 small nonzero entries

/-- Settles O38: each command is its guards and then `convolveWith`, with one kernel for both images, and
`convSample_congr` says that channel `c` is all that its samples of channel `c` depend on. -/
theorem convolutionKeepsChannelsApart : Obligations.ConvolutionKeepsChannelsApart := by
  intro i hi s s' t t' c differ inside agree ran ran'
  obtain ⟨rb, rfl⟩ : ∃ rb, s' = { s with rb := rb } := ⟨_, differ⟩
  obtain rfl | preset := List.mem_cons.mp hi
  · exact agreeOnChannel_convolve agree inside t t' ran ran'
  · obtain ⟨p, hp, rfl⟩ : ∃ p ∈ presets, p.1 = i := List.mem_map.mp preset
    rw [exec_preset p hp] at ran ran'
    exact agreeOnChannel_preset agree inside _ _ t t' ran ran'

end Sys2Proof.Proofs

/-! PROOFS. The equalization unit (43_equalization.md). Either path of EQUALIZE stores one quotient over the running counts
of the levels (R174, R178), each with its own minimum, so what the remap table is follows from that quotient. -/

namespace Sys2Proof.Machine

open Sys2Proof.Claims

/-! ## The forward conversion (R177) -/

theorem clamp_of_mem {v lo hi : Int} (lower : lo ≤ v) (upper : v ≤ hi) : clamp v lo hi = v := by
  rw [clamp, if_neg (not_lt.mpr lower), if_neg (not_lt.mpr upper)]

theorem lumaBin_eq_clamp (r g b : Nat) : (lumaBin r g b : Int) = clamp (round (lumaN r g b) 1000) 0 255 :=
  Int.toNat_of_nonneg (clamp_mem _ (by decide)).1

section
variable {r g b : Nat} (hr : r ≤ 255) (hg : g ≤ 255) (hb : b ≤ 255)
include hr hg hb

theorem lumaN_range : 0 ≤ lumaN r g b ∧ lumaN r g b ≤ 255000 := by
  unfold lumaN
  omega

theorem chromaUN_range : -11117745 ≤ chromaUN r g b ∧ chromaUN r g b ≤ 11118000 := by
  unfold chromaUN
  omega

theorem chromaVN_range : -15682500 ≤ chromaVN r g b ∧ chromaVN r g b ≤ 15682500 := by
  unfold chromaVN
  omega

/-- The three weights sum to 1, so rounding the luma stays within a sample's range. -/
theorem round_lumaN : round (lumaN r g b) 1000 = (2 * lumaN r g b + 1000) / 2000 ∧
    0 ≤ round (lumaN r g b) 1000 ∧ round (lumaN r g b) 1000 ≤ 255 := by
  obtain ⟨lower, upper⟩ := lumaN_range hr hg hb
  have floor : round (lumaN r g b) 1000 = (2 * lumaN r g b + 1000) / 2000 := round_of_nonneg lower 1000
  refine ⟨floor, ?_⟩
  rw [floor]
  omega

end

theorem pixelBin_eq (s : State) (p : Nat) : s.pixelBin p = binnedLuma s p := by
  have hr := (s.sample (3 * p)).isLt
  have hg := (s.sample (3 * p + 1)).isLt
  have hb := (s.sample (3 * p + 2)).isLt
  exact (lumaBin_eq (by omega) (by omega) (by omega)).1

theorem binnedLuma_lt (s : State) (p : Nat) : binnedLuma s p < 256 := by
  have hr := (s.sample (3 * p)).isLt
  have hg := (s.sample (3 * p + 1)).isLt
  have hb := (s.sample (3 * p + 2)).isLt
  unfold binnedLuma
  omega

/-! ## The levels and their counts (R171) -/

theorem count_map_range (f : Nat → Nat) (n v : Nat) :
    ((List.range n).map f).count v = ((Finset.range n).filter fun k => f k = v).card := by
  rw [List.count, List.countP_map, List.countP_eq_length_filter]
  rfl

theorem count_levels (s : State) (v : Nat) : s.levels.count v = levelCount s v := by
  unfold State.levels levelCount
  simp only [← pixelBin_eq]
  split_ifs <;> exact count_map_range _ _ _

/-- How many of the levels are at most `i` (R172). -/
def countUpTo (levels : List Nat) (i : Nat) : Nat := ∑ j ∈ Finset.range (i + 1), levels.count j

section
variable (levels : List Nat)

theorem countUpTo_zero : countUpTo levels 0 = levels.count 0 := Finset.sum_range_one _

theorem countUpTo_mono : Monotone (countUpTo levels) := fun _ _ h =>
  Finset.sum_le_sum_of_subset (Finset.range_mono (Nat.succ_le_succ h))

theorem countUpTo_le_length (i : Nat) : countUpTo levels i ≤ levels.length := sum_count_le_length levels _

/-- The CDF ends at the number of levels (R172). -/
theorem countUpTo_last {levels : List Nat} {n : Nat} (bounded : ∀ v ∈ levels, v < n + 1) :
    countUpTo levels n = levels.length := by
  have total := Multiset.sum_count_eq_card (m := (levels : Multiset Nat))
    fun v hv => Finset.mem_range.mpr (bounded v hv)
  simpa only [countUpTo, Multiset.coe_count, Multiset.coe_card] using total

theorem cdfOf_histogram : cdfOf (histogram levels) = (List.range 256).map (countUpTo levels) := by
  refine List.ext_getElem? fun i => ?_
  by_cases hi : i < 256
  · rw [cdfOf_histogram_getElem? levels hi, List.getElem?_map, List.getElem?_range hi]
    rfl
  · rw [List.getElem?_eq_none (by simpa using hi), List.getElem?_eq_none (by simpa using hi)]

end

/-! ## The lowest level present (R173) -/

/-- `m` is the lowest of the levels. -/
def LowestLevel (levels : List Nat) (m : Nat) : Prop := (∀ i < m, levels.count i = 0) ∧ 0 < levels.count m

theorem exists_lowestLevel {levels : List Nat} (nonempty : levels ≠ []) (bytes : ∀ v ∈ levels, v < 256) :
    ∃ m < 256, LowestLevel levels m := by
  obtain ⟨v, hv⟩ := List.exists_mem_of_ne_nil levels nonempty
  have present : ∃ m, 0 < levels.count m := ⟨v, List.count_pos_iff.mpr hv⟩
  refine ⟨Nat.find present, bytes _ (List.count_pos_iff.mp (Nat.find_spec present)), fun i below => ?_,
    Nat.find_spec present⟩
  exact Nat.eq_zero_of_not_pos (Nat.find_min present below)

section
variable {levels : List Nat} {m : Nat} (lowest : LowestLevel levels m)
include lowest

theorem countUpTo_of_lt_lowest {i : Nat} (below : i < m) : countUpTo levels i = 0 :=
  Finset.sum_eq_zero fun j hj => lowest.1 j (by rw [Finset.mem_range] at hj; omega)

theorem countUpTo_lowest : countUpTo levels m = levels.count m := by
  have zeroBelow : ∑ j ∈ Finset.range m, levels.count j = 0 :=
    Finset.sum_eq_zero fun j hj => lowest.1 j (Finset.mem_range.mp hj)
  rw [countUpTo, Finset.sum_range_succ, zeroBelow, Nat.zero_add]

/-- R173: the first CDF entry that is not 0 is that of the lowest level, which is its count. -/
theorem firstNonzero_cdfOf (hm : m < 256) : firstNonzero (cdfOf (histogram levels)) = levels.count m := by
  have first : (cdfOf (histogram levels)).find? (fun c => c != 0) = some (levels.count m) := by
    rw [List.find?_eq_some_iff_getElem]
    refine ⟨by simpa using lowest.2.ne', m, by simpa using hm, ?_, fun j below => ?_⟩
    · simp [cdfOf_histogram, countUpTo_lowest lowest]
    · simp [cdfOf_histogram, countUpTo_of_lt_lowest lowest below]
  rw [firstNonzero, first, Option.getD_some]

end

/-! ## The quotient of the remap tables (R174, R178) -/

/-- The integer form of R174's quotient. In natural numbers it is 0 on the guard line, where its denominator is 0, and
below the minimum. -/
def remapQuotient (total cmin c : Nat) : Nat := (510 * (c - cmin) + (total - cmin)) / (2 * (total - cmin))

theorem remapQuotient_guard (total c : Nat) : remapQuotient total total c = 0 := by simp [remapQuotient]

theorem remapQuotient_of_le (total : Nat) {cmin c : Nat} (h : c ≤ cmin) : remapQuotient total cmin c = 0 := by
  rw [remapQuotient, Nat.sub_eq_zero_of_le h, Nat.mul_zero, Nat.zero_add]
  obtain zero | pos := Nat.eq_zero_or_pos (total - cmin)
  · rw [zero, Nat.zero_div]
  · exact Nat.div_eq_of_lt (by omega)

theorem remapQuotient_mono (total cmin : Nat) : Monotone (remapQuotient total cmin) := fun c d h =>
  Nat.div_le_div_right (by omega)

theorem remapQuotient_total {total cmin : Nat} (h : cmin < total) : remapQuotient total cmin total = 255 := by
  rw [remapQuotient]
  exact Nat.div_eq_of_lt_le (by omega) (by omega)

theorem remapQuotient_le {total cmin c : Nat} (hmin : cmin ≤ total) (hc : c ≤ total) :
    remapQuotient total cmin c ≤ 255 := by
  refine (remapQuotient_mono total cmin hc).trans ?_
  obtain rfl | h := hmin.eq_or_lt
  · rw [remapQuotient_guard]
    decide
  · exact (remapQuotient_total h).le

theorem lut1Entry_eq {total cmin c : Nat} (hmin : cmin ≤ total) (hc : c ≤ total) :
    lut1Entry total cmin c = remapQuotient total cmin c := by
  unfold lut1Entry
  split_ifs with guard below
  · rw [guard, remapQuotient_guard]
  · exact (remapQuotient_of_le total below.le).symm
  · exact (remapQuotient_eq (not_lt.mp below) hc (by omega)).1

theorem lut3Entry_eq {total c0 c : Nat} (h0 : c0 ≤ c) (hc : c ≤ total) :
    lut3Entry total c0 c = remapQuotient total c0 c := by
  unfold lut3Entry
  split_ifs with guard
  · rw [guard, remapQuotient_guard]
  · exact (remapQuotient_eq h0 hc (by omega)).1

/-! ## The remap table -/

/-- The table of either path, for its minimum `cmin`. -/
def remapTable (levels : List Nat) (cmin : Nat) : List Nat :=
  (List.range 256).map fun i => remapQuotient levels.length cmin (countUpTo levels i)

theorem remapTable_getD (levels : List Nat) (cmin : Nat) {i : Nat} (hi : i < 256) :
    (remapTable levels cmin).getD i 0 = remapQuotient levels.length cmin (countUpTo levels i) := by
  simp [remapTable, hi]

theorem lut1_eq_remapTable {levels : List Nat} {m : Nat} (lowest : LowestLevel levels m) (hm : m < 256) :
    lut1 levels.length (cdfOf (histogram levels)) = remapTable levels (levels.count m) := by
  rw [lut1, firstNonzero_cdfOf lowest hm, cdfOf_histogram, List.map_map]
  exact List.map_congr_left fun i _ => lut1Entry_eq List.count_le_length (countUpTo_le_length levels i)

theorem lut3_eq_remapTable (levels : List Nat) :
    lut3 levels.length (cdfOf (histogram levels)) = remapTable levels (levels.count 0) := by
  have bin0 : (cdfOf (histogram levels)).getD 0 0 = levels.count 0 := by
    rw [cdfOf_histogram, ← countUpTo_zero]
    rfl
  rw [lut3, bin0, cdfOf_histogram, List.map_map]
  refine List.map_congr_left fun i _ => lut3Entry_eq ?_ (countUpTo_le_length levels i)
  exact countUpTo_zero levels ▸ countUpTo_mono levels (Nat.zero_le i)

/-! ## What HISTO and EQUALIZE leave (R170, R183) -/

/-- What EQUALIZE leaves, for the minimum `cmin` of its path and the sample that a table gives each index. -/
def State.equalized (s : State) (cmin : Nat) (remap : List Nat → Nat → Byte) : State :=
  ((s.storeTables s.levels).storeRemap (remapTable s.levels cmin)
    ((List.range s.nSamples).map (remap (remapTable s.levels cmin)))).complete .ok

section
variable (s : State) (cmin : Nat) (remap : List Nat → Nat → Byte)

theorem equalized_frame : s.equalized cmin remap = { s with
    hist := (s.equalized cmin remap).hist
    cdf := (s.equalized cmin remap).cdf
    lut := (s.equalized cmin remap).lut
    rb := (s.equalized cmin remap).rb
    result := .ok
    status := okStatus s.status } := complete_ok _

theorem equalized_sample (k : Nat) : (s.equalized cmin remap).sample k =
    if k < s.nSamples then remap (remapTable s.levels cmin) k else s.sample k := by
  refine (State.sample_write s ((List.range s.nSamples).map (remap (remapTable s.levels cmin)))
    (s.equalized cmin remap) rfl rfl k).trans ?_
  simp

theorem equalized_lutEntry {i : Nat} (hi : i < 256) :
    (s.equalized cmin remap).lutEntry i = BitVec.ofNat 8 ((remapTable s.levels cmin).getD i 0) := by
  refine item_of_write (vs := (remapTable s.levels cmin).map (BitVec.ofNat 8)) ?_
  simp [remapTable, hi]

/-- The quotient fits the table's bytes. -/
theorem equalized_lutEntry_toNat (hmin : cmin ≤ s.levels.length) {i : Nat} (hi : i < 256) :
    ((s.equalized cmin remap).lutEntry i).toNat =
      remapQuotient s.levels.length cmin (countUpTo s.levels i) := by
  have byte := remapQuotient_le hmin (countUpTo_le_length s.levels i)
  rw [equalized_lutEntry s cmin remap hi, remapTable_getD _ _ hi, BitVec.toNat_ofNat, Nat.mod_eq_of_lt (by omega)]

end

section
variable {s : State} (loaded : s.status.bufvalid = true)
include loaded

/-- There is one level for each pixel, a sample of a 1-channel image being one. -/
theorem levels_length : s.levels.length = s.total := by
  unfold State.levels
  split_ifs with one
  · rw [List.length_map, List.length_range, State.nSamples, if_pos loaded, one, Nat.mul_one, State.total]
  · rw [List.length_map, List.length_range]

theorem exec_equalize_of_one (one : s.ch = 1) {m : Nat} (hm : m < 256) (lowest : LowestLevel s.levels m) :
    exec .equalize s = .next (s.equalized (s.levels.count m) (remap1 s)) := by
  rw [exec, execEqualize, State.needBuffer_of_loaded loaded, if_pos one, State.succeed_eq, State.equalize1,
    ← levels_length loaded, lut1_eq_remapTable lowest hm]
  rfl

theorem exec_equalize_of_three (three : s.ch = 3) :
    exec .equalize s = .next (s.equalized (s.levels.count 0) (remap3 s)) := by
  rw [exec, execEqualize, State.needBuffer_of_loaded loaded, if_neg (by omega), State.succeed_eq, State.equalize3,
    ← levels_length loaded, lut3_eq_remapTable]
  rfl

end

section
variable {s : State} (shape : s.ShapeOk) (loaded : s.status.bufvalid = true)
include shape loaded

theorem total_range : 0 < s.total ∧ s.total < 2 ^ 32 := by
  obtain ⟨width, height, channels, fits⟩ := shape.loaded loaded
  have pixels : s.total ≤ s.w * s.h * s.ch := Nat.le_mul_of_pos_right _ (by omega)
  unfold Config.rasterCap at fits
  exact ⟨Nat.mul_pos width height, by omega⟩

theorem levels_length_lt : s.levels.length < 2 ^ 32 :=
  (levels_length loaded).trans_lt (total_range shape loaded).2

theorem cdfEntry_eq_countUpTo {i : Nat} (hi : i < 256) :
    ((s.storeTables s.levels).cdfEntry i).toNat = countUpTo s.levels i :=
  cdfEntry_storeTables s (levels_length_lt shape loaded) hi

theorem holdsTables_storeTables : HoldsTables s (s.storeTables s.levels) := by
  have small := levels_length_lt shape loaded
  refine ⟨fun v hv => ?_, ?_, fun i hi => ?_⟩
  · rw [histEntry_storeTables s small hv, count_levels]
  · rw [cdfEntry_storeTables s small (by decide), histEntry_storeTables s small (by decide), Finset.sum_range_one]
  · rw [cdfEntry_storeTables s small (by omega), cdfEntry_storeTables s small (by omega),
      histEntry_storeTables s small (by omega), Finset.sum_range_succ]

/-- The remap table as the statements write it, with the minimum as the count of a level. -/
theorem equalized_lutEntry_levelCount (v : Nat) (remap : List Nat → Nat → Byte) {i : Nat} (hi : i < 256) :
    ((s.equalized (s.levels.count v) remap).lutEntry i).toNat =
      remapQuotient s.total (levelCount s v)
        ((s.equalized (s.levels.count v) remap).cdfEntry i).toNat := by
  have cdf : ((s.equalized (s.levels.count v) remap).cdfEntry i).toNat = countUpTo s.levels i :=
    cdfEntry_eq_countUpTo shape loaded hi
  rw [equalized_lutEntry_toNat s _ remap List.count_le_length hi, cdf, levels_length loaded, count_levels]

theorem exists_lowestLevel_levels : ∃ m < 256, LowestLevel s.levels m := by
  refine exists_lowestLevel (fun empty => ?_) (levels_lt s)
  have length := levels_length loaded
  have pos := (total_range shape loaded).1
  rw [empty, List.length_nil] at length
  omega

/-- Either path stores its quotient for a minimum that is the count of a level. -/
theorem exec_equalize_eq : ∃ v remap, exec .equalize s = .next (s.equalized (s.levels.count v) remap) := by
  obtain ⟨-, -, one | three, -⟩ := shape.loaded loaded
  · obtain ⟨m, hm, lowest⟩ := exists_lowestLevel_levels shape loaded
    exact ⟨m, remap1 s, exec_equalize_of_one loaded one hm lowest⟩
  · exact ⟨0, remap3 s, exec_equalize_of_three loaded three⟩

end

/-! ## The remapped samples (R175, R179, R180) -/

theorem remap1_equalized (s : State) (cmin k : Nat) :
    remap1 s (remapTable s.levels cmin) k = (s.equalized cmin (remap1 s)).lutEntry (s.sample k).toNat :=
  (equalized_lutEntry s cmin (remap1 s) (s.sample k).isLt).symm

/-- The three channels of pixel `p`, its luma `y` being what the table holds at its bin. -/
theorem remap3_pixel (s : State) {lut : List Nat} {p y : Nat} (remapped : lut.getD (binnedLuma s p) 0 = y) :
    let r := (s.sample (3 * p)).toNat
    let g := (s.sample (3 * p + 1)).toNat
    let b := (s.sample (3 * p + 2)).toNat
    remap3 s lut (3 * p) = backRed y (chromaVN r g b) ∧
    remap3 s lut (3 * p + 1) = backGreen y (chromaUN r g b) (chromaVN r g b) ∧
    remap3 s lut (3 * p + 2) = backBlue y (chromaUN r g b) := by
  rw [← pixelBin_eq, State.pixelBin] at remapped
  subst remapped
  have red : 3 * p / 3 = p ∧ 3 * p % 3 = 0 := by omega
  have green : (3 * p + 1) / 3 = p ∧ (3 * p + 1) % 3 = 1 := by omega
  have blue : (3 * p + 2) / 3 = p ∧ (3 * p + 2) % 3 = 2 := by omega
  simp [remap3, red, green, blue]

theorem backRed_eq (y : Nat) (vn : Int) :
    backRed y vn = roundClamp (y * 10000000000 + 113983 * vn) 10000000000 :=
  clampByte_round _ (by decide)

theorem backGreen_eq (y : Nat) (un vn : Int) :
    backGreen y un vn = roundClamp (y * 10000000000 - 39465 * un - 58060 * vn) 10000000000 :=
  clampByte_round _ (by decide)

theorem backBlue_eq (y : Nat) (un : Int) :
    backBlue y un = roundClamp (y * 10000000000 + 203211 * un) 10000000000 :=
  clampByte_round _ (by decide)

end Sys2Proof.Machine

namespace Sys2Proof.Proofs

open Sys2Proof.Machine Sys2Proof.Claims

/-- Settles O39: the rounded luma is in range (`round_lumaN`), so its clamp keeps it. -/
theorem lumaNeverNeedsItsClamp : Obligations.LumaNeverNeedsItsClamp := by
  intro r g b hr hg hb
  obtain ⟨yLower, yUpper⟩ := lumaN_range hr hg hb
  obtain ⟨uLower, uUpper⟩ := chromaUN_range hr hg hb
  obtain ⟨vLower, vUpper⟩ := chromaVN_range hr hg hb
  obtain ⟨floor, lower, upper⟩ := round_lumaN hr hg hb
  have bin := lumaBin_eq_clamp r g b
  refine ⟨yLower, yUpper, uLower, uUpper, vLower, vUpper, bin, ?_, upper, rfl, rfl, rfl, by decide⟩
  rw [bin, clamp_of_mem lower upper, floor]

/-- Settles O40: the tables are those of `holdsTables_storeTables`; the last running count is the number of levels. -/
theorem histoCountsLevels : Obligations.HistoCountsLevels := by
  refine ⟨by decide, fun s => failsWith_of_noBuffer rfl, fun s shape loaded => ?_⟩
  have total : countUpTo s.levels 255 = s.total := (countUpTo_last (levels_lt s)).trans (levels_length loaded)
  refine ⟨(s.storeTables s.levels).complete .ok, State.needBuffer_of_loaded loaded _, complete_ok _,
    holdsTables_storeTables shape loaded, (cdfEntry_eq_countUpTo shape loaded (by decide)).trans total, ?_⟩
  rw [← total]
  exact Finset.sum_congr rfl fun v hv =>
    histEntry_storeTables s (levels_length_lt shape loaded) (Finset.mem_range.mp hv)

/-- Settles O41: with the lowest level's count as minimum the quotient is 0 on the guard line and below that level. -/
theorem equalizeRemapsOneChannel : Obligations.EqualizeRemapsOneChannel := by
  refine ⟨fun s => failsWith_of_noBuffer rfl, fun s shape loaded one => ?_⟩
  obtain ⟨m, hm, lowest⟩ := exists_lowestLevel_levels shape loaded
  refine ⟨_, exec_equalize_of_one loaded one hm lowest, equalized_frame s _ _,
    holdsTables_storeTables shape loaded, ⟨m, hm, fun i below => ?_, ?_, fun i hi => ?_⟩, fun k => ?_⟩
  · rw [← count_levels, lowest.1 i below]
  · rw [← count_levels]
    exact lowest.2
  · rw [equalized_lutEntry_levelCount shape loaded m (remap1 s) hi]
    split_ifs with zero
    · obtain guard | below := zero
      · rw [← guard, remapQuotient_guard]
      · have cdf : ((s.equalized (s.levels.count m) (remap1 s)).cdfEntry i).toNat = 0 :=
          (cdfEntry_eq_countUpTo shape loaded hi).trans (countUpTo_of_lt_lowest lowest below)
        rw [cdf, remapQuotient_of_le _ (Nat.zero_le _)]
    · rfl
  · rw [equalized_sample, remap1_equalized]

/-- Settles O42: with bin 0's count as minimum the quotient is 0 on the guard line; a pixel's samples are
`remap3_pixel`. -/
theorem equalizeRemapsLuma : Obligations.EqualizeRemapsLuma := by
  intro s shape loaded three
  refine ⟨_, exec_equalize_of_three loaded three, equalized_frame s _ _, holdsTables_storeTables shape loaded,
    fun i hi => ?_, fun p hp => ?_, fun k beyond => ?_⟩
  · rw [equalized_lutEntry_levelCount shape loaded 0 (remap3 s) hi]
    split_ifs with guard
    · rw [← guard, remapQuotient_guard]
    · rfl
  · have pixels := nSamples_of_three loaded three
    have bin := binnedLuma_lt s p
    have luma := equalized_lutEntry_toNat s _ (remap3 s) (List.count_le_length (a := 0) (l := s.levels)) bin
    obtain ⟨red, green, blue⟩ := remap3_pixel s ((remapTable_getD _ _ bin).trans luma.symm)
    refine ⟨?_, ?_, ?_⟩
    · rw [equalized_sample, if_pos (by omega), red, backRed_eq]
      rfl
    · rw [equalized_sample, if_pos (by omega), green, backGreen_eq]
      rfl
    · rw [equalized_sample, if_pos (by omega), blue, backBlue_eq]
      rfl
  · rw [equalized_sample, if_neg (not_lt.mpr beyond)]

/-- Settles O43: on either path (`exec_equalize_eq`) the table is a quotient that rises with the running count; at the
last level that count is the total, where the quotient is 255 unless the guard line makes it 0 everywhere. -/
theorem equalizeTableIsMonotone : Obligations.EqualizeTableIsMonotone := by
  intro s t shape ran succeeded
  have loaded : s.status.bufvalid = true := by
    obtain ⟨loaded, -⟩ | ⟨-, rfl⟩ := State.needBuffer_eq_next ran
    · exact loaded
    · cases succeeded
  obtain ⟨v, remap, ran'⟩ := exec_equalize_eq shape loaded
  cases ran.symm.trans ran'
  have hmin : s.levels.count v ≤ s.levels.length := List.count_le_length
  have entry := fun i (hi : i < 256) => equalized_lutEntry_toNat s _ remap hmin hi
  refine ⟨fun i j hij hj => ?_, ?_⟩
  · rw [entry i (by omega), entry j hj]
    exact remapQuotient_mono _ _ (countUpTo_mono s.levels hij)
  · obtain guard | other := hmin.eq_or_lt
    · refine .inr fun i hi => BitVec.eq_of_toNat_eq ?_
      rw [entry i hi, guard, remapQuotient_guard]
      rfl
    · left
      rw [entry 255 (by decide), countUpTo_last (levels_lt s), remapQuotient_total other]

end Sys2Proof.Proofs

/-! PROOFS. The system commands (44_system.md): the state each leaves before its completion update, and SETSHAPE's tests
in their order. -/

namespace Sys2Proof.Machine

open Sys2Proof.Claims

/-! ## SETSHAPE (R192) -/

section
variable {w h ch : Nat}

theorem setshapeCheck_of_otherChannels (other : ch ≠ 1 ∧ ch ≠ 3) : setshapeCheck w h ch = .shapeMismatch := if_pos other

variable (channels : ch = 1 ∨ ch = 3)
include channels

theorem setshapeCheck_of_zeroSide (zero : w = 0 ∨ h = 0) : setshapeCheck w h ch = .unsupportedFormat := by
  rw [setshapeCheck, if_neg (by omega), if_pos zero]

variable (width : 0 < w) (height : 0 < h)
include width height

theorem setshapeCheck_of_tooLarge (large : Config.rasterCap < w * h * ch) :
    setshapeCheck w h ch = .capacityExceeded := by
  rw [setshapeCheck, if_neg (by omega), if_neg (by omega), if_pos large]

theorem setshapeCheck_of_fits (fits : w * h * ch ≤ Config.rasterCap) : setshapeCheck w h ch = .ok := by
  rw [setshapeCheck, if_neg (by omega), if_neg (by omega), if_neg (not_lt.mpr fits)]

end

/-- The buffer that a successful SETSHAPE makes, before the completion update. -/
def State.zeroBuffer (s : State) : State :=
  { s with
    width := s.argw
    height := s.argh
    channels := s.argch
    status := { s.status with bufvalid := true, hdrvalid := false }
    rb := s.rb.write 0 (List.replicate (s.argw.toNat * s.argh.toNat * s.argch.toNat) 0#8) }

theorem zeroBuffer_sample (s : State) (k : Nat) : (s.zeroBuffer.complete .ok).sample k =
    if k < s.argw.toNat * s.argh.toNat * s.argch.toNat then 0#8 else s.sample k := by
  rw [State.sample_write s _ (s.zeroBuffer.complete .ok) rfl rfl]
  simp

theorem exec_setshape_of_ok {s : State} (passed : setshapeCheck s.argw.toNat s.argh.toNat s.argch.toNat = .ok) :
    exec .setshape s = .next (s.zeroBuffer.complete .ok) := by
  rw [exec, execSetshape, passed]
  rfl

theorem setshape_failsWith {s : State} {r : ResultCode}
    (refused : setshapeCheck s.argw.toNat s.argh.toNat s.argch.toNat = r) (failure : r ≠ .ok) :
    FailsWith .setshape s r := by
  rw [FailsWith, ← complete_of_ne_ok s failure, exec, execSetshape]
  split
  · exact absurd (refused.symm.trans ‹_›) failure
  · rw [refused, State.fail_eq]

/-! ## RELEASE (R193) -/

/-- What RELEASE leaves before the completion update. -/
def State.dropBuffer (s : State) : State :=
  { s with
    width := 0#32
    height := 0#32
    channels := 0#32
    status := { s.status with bufvalid := false, hdrvalid := false } }

theorem exec_release (s : State) : exec .release s = .next (s.dropBuffer.complete .ok) := rfl

/-- Without a buffer the shape and the captured header are gone already (R26, R27). -/
theorem dropBuffer_of_empty {s : State} (shape : s.ShapeOk) (empty : s.status.bufvalid = false) : s.dropBuffer = s := by
  obtain ⟨w, h, ch, header⟩ := shape.empty empty
  have width : s.width = 0#32 := BitVec.eq_of_toNat_eq w
  have height : s.height = 0#32 := BitVec.eq_of_toNat_eq h
  have channels : s.channels = 0#32 := BitVec.eq_of_toNat_eq ch
  calc s.dropBuffer
    _ = { s with
          width := s.width
          height := s.height
          channels := s.channels
          status := { s.status with bufvalid := s.status.bufvalid, hdrvalid := s.status.hdrvalid } } := by
        rw [width, height, channels, empty, header]
        rfl
    _ = s := rfl

end Sys2Proof.Machine

namespace Sys2Proof.Proofs

open Sys2Proof.Machine Sys2Proof.Claims

/-- Settles O18: each premise fixes the answer of `setshapeCheck`; the new samples are `zeroBuffer_sample`. -/
theorem setshapeMakesAZeroBuffer : Obligations.SetshapeMakesAZeroBuffer := by
  refine ⟨by decide, fun s => ⟨fun other => ?_, fun channels zero => ?_, fun channels width height large => ?_,
    fun channels width height fits => ?_⟩⟩
  · exact setshape_failsWith (setshapeCheck_of_otherChannels other) (by decide)
  · exact setshape_failsWith (setshapeCheck_of_zeroSide channels zero) (by decide)
  · exact setshape_failsWith (setshapeCheck_of_tooLarge channels width height large) (by decide)
  · exact ⟨_, exec_setshape_of_ok (setshapeCheck_of_fits channels width height fits), complete_ok _,
      zeroBuffer_sample s⟩

/-- Settles O19: without a buffer there is nothing to drop (`dropBuffer_of_empty`), and afterwards BUFVALID is 0, so
EQUALIZE's guard fails. -/
theorem releaseDropsTheBuffer : Obligations.ReleaseDropsTheBuffer := by
  refine ⟨by decide, fun s => ?_, fun s shape empty => ?_, fun s t ran => ?_⟩
  · rw [exec_release, complete_ok]
    rfl
  · rw [exec_release, dropBuffer_of_empty shape empty, complete_ok]
  · have dropped : t.status.bufvalid = false := by
      cases ran
      rfl
    exact ⟨if_neg (by simp [dropped]), failsWith_of_noBuffer rfl dropped⟩

/-- Settles O17: NOP is the completion update alone (`complete_ok`); the reset example is evaluated. -/
theorem nopOnlyCompletes : Obligations.NopOnlyCompletes :=
  ⟨fun s => congrArg Host.Outcome.next (complete_ok s), ⟨_, rfl, by decide⟩, by decide, by decide⟩

end Sys2Proof.Proofs

/-! PROOFS. Failures and the interrupt (60_exceptions.md): the completion update that every accepted command ends with,
the result codes that each command can have, and the two host writes that the interrupt output depends on. -/

namespace Sys2Proof.Machine

/-! ## The completion at the engine's turn (R81, R205) -/

/-- However a command ends, the last thing it does is the completion update, and what it did before touched neither the
agenda, IR, IRQEN, ERRF nor HZD. -/
theorem Ends.exists_complete {s : State} {o : Host.Outcome State Fault Refusal} (h : Ends s o) :
    ∃ (u : State) (r : ResultCode), o = .next (u.complete r) ∧ u.agenda = s.agenda ∧ u.ir = s.ir ∧
      u.irqen = s.irqen ∧ u.status.errf = s.status.errf ∧ u.status.hzd = s.status.hzd := by
  obtain ⟨r, -, failed⟩ | ⟨u, succeeded, frame⟩ := h
  · exact ⟨s, r, failed, rfl, rfl, rfl, rfl, rfl⟩
  · refine ⟨u, .ok, succeeded, ?_⟩
    rw [frame]
    exact ⟨rfl, rfl, rfl, rfl, rfl⟩

/-- The engine's turn with a command in flight, whether it is on the agenda or the agenda is empty. -/
theorem step_of_turn {s : State} (busy : s.status.busy = true)
    (turn : s.agenda = [] ∨ ∃ rest, s.agenda = .engine :: rest) :
    step s = State.perform { s with agenda := s.agenda.tail } := by
  obtain agenda | ⟨rest, agenda⟩ := turn
  · rw [step_of_empty agenda, engineTurn_of_busy busy, agenda, List.tail_nil, ← agenda]
  · rw [step_of_cons agenda, agenda]
    exact engineTurn_of_busy (s := { s with agenda := rest }) busy

/-! ## The codes of each command (R203) -/

/-- The state's result code is one of `codes`. -/
def ResultIn (codes : List ResultCode) (t : State) : Prop := t.result ∈ codes

section
variable {s : State} {codes : List ResultCode}

theorem resultIn_fail {r : ResultCode} (possible : r ∈ codes) : Yields (ResultIn codes) (s.fail r) :=
  yields_next possible

theorem resultIn_succeed (possible : .ok ∈ codes) : Yields (ResultIn codes) s.succeed :=
  yields_next possible

theorem resultIn_needBuffer {body : Host.Outcome State Fault Refusal} (possible : .emptyBuffer ∈ codes)
    (loaded : Yields (ResultIn codes) body) : Yields (ResultIn codes) (s.needBuffer body) :=
  yields_needBuffer possible fun _ => loaded

theorem resultIn_needChannels {n : Nat} {body : Host.Outcome State Fault Refusal} (possible : .shapeMismatch ∈ codes)
    (matching : Yields (ResultIn codes) body) : Yields (ResultIn codes) (s.needChannels n body) :=
  yields_needChannels possible matching

/-- A command whose only test is the one for a buffer. -/
theorem resultIn_needBuffer_succeed (u : State) : Yields (ResultIn [.ok, .emptyBuffer]) (s.needBuffer u.succeed) :=
  resultIn_needBuffer (by decide) (resultIn_succeed (by decide))

/-- A command that tests for a buffer and for its channel count. -/
theorem resultIn_needChannels_succeed (n : Nat) (u : State) :
    Yields (ResultIn [.ok, .shapeMismatch, .emptyBuffer]) (s.needBuffer (s.needChannels n u.succeed)) :=
  resultIn_needBuffer (by decide) (resultIn_needChannels (by decide) (resultIn_succeed (by decide)))

end

section
variable {s : State} {e : ResultCode}

theorem decode8_error {w h : Nat} (refused : decode8 s w h = .error e) : e = .ioError := by
  simp only [decode8] at refused
  split_ifs at refused <;> exact (Except.error.inj refused).symm

theorem decode24_error {w h : Nat} (refused : decode24 s w h = .error e) : e = .ioError := by
  simp only [decode24] at refused
  split_ifs at refused
  exact (Except.error.inj refused).symm

theorem decodeSized_error {depth : Nat} {w h : Int} (refused : decodeSized s depth w h = .error e) :
    e ∈ [.ioError, .unsupportedFormat, .capacityExceeded] := by
  unfold decodeSized at refused
  split_ifs at refused
  · cases refused; decide
  · cases refused; decide
  · cases refused; decide
  · exact decode8_error refused ▸ List.mem_cons_self
  · exact decode24_error refused ▸ List.mem_cons_self

theorem fileRead_error {off n : Nat} (refused : s.fileRead off n = .error e) : e = .ioError := by
  unfold State.fileRead at refused
  split_ifs at refused
  exact (Except.error.inj refused).symm

/-- The codes of the tests of R112. -/
theorem decodeFile_error (refused : decodeFile s = .error e) :
    e ∈ [.ioError, .invalidSignature, .unsupportedFormat, .capacityExceeded] := by
  unfold decodeFile at refused
  split at refused
  · cases refused
    exact fileRead_error ‹_› ▸ List.mem_cons_self
  · have sized : [.ioError, .unsupportedFormat, .capacityExceeded] ⊆
        [ResultCode.ioError, .invalidSignature, .unsupportedFormat, .capacityExceeded] := by decide
    split_ifs at refused
    · cases refused; decide
    · cases refused; decide
    · cases refused; decide
    · exact sized (decodeSized_error refused)

end

theorem setshapeCheck_mem (w h ch : Nat) :
    setshapeCheck w h ch ∈ [.ok, .unsupportedFormat, .shapeMismatch, .capacityExceeded] := by
  unfold setshapeCheck
  split_ifs <;> decide

/-! ## The interrupt output (R210) -/

theorem State.irq_iff (s : State) : s.irq = true ↔
    (s.status.done = true ∧ s.irqen.doneIe = true) ∨ (s.status.errf = true ∧ s.irqen.errIe = true) ∨
    (s.status.hzd = true ∧ s.irqen.hzdIe = true) := by
  simp [State.irq, or_assoc]

theorem State.irq_of_noFlag {s : State} (done : s.status.done = false) (errf : s.status.errf = false)
    (hzd : s.status.hzd = false) : s.irq = false := by
  simp [State.irq, done, errf, hzd]

theorem State.irq_of_noEnable {s : State} (done : s.irqen.doneIe = false) (err : s.irqen.errIe = false)
    (hzd : s.irqen.hzdIe = false) : s.irq = false := by
  simp [State.irq, done, err, hzd]

end Sys2Proof.Machine

namespace Sys2Proof.Proofs

open Sys2Proof.Machine Sys2Proof.Claims

/-- Settles O10: the turn performs the word in IR (`step_of_turn`), which ends in the completion update
(`Ends.exists_complete`). -/
theorem everyAcceptedCommandCompletes : Obligations.EveryAcceptedCommandCompletes := by
  intro s busy turn
  obtain ⟨u, r, completed, agenda, ir, irqen, errf, hzd⟩ :=
    (perform_ends { s with agenda := s.agenda.tail }).exists_complete
  have raised : (r != .ok) = decide (r ≠ .ok) := by simp [bne, beq_eq_decide]
  exact ⟨_, (step_of_turn busy turn).trans completed, agenda, rfl, rfl, congrArg₂ or errf raised, hzd, irqen, ir⟩

/-- Settles O11: a command that ends with another code than 0 only failed (`exec_ends`). -/
theorem failureChangesNothingElse : Obligations.FailureChangesNothingElse := by
  intro i s t executed failure
  obtain ⟨r, nonzero, failed⟩ | ⟨u, succeeded, -⟩ := exec_ends i s
  · cases failed.symm.trans executed
    exact complete_of_ne_ok s nonzero
  · cases succeeded.symm.trans executed
    exact absurd rfl failure

/-- Settles O12: the codes of a command are those of its tests, and 0. -/
theorem resultCodesOfEachCommand : Obligations.ResultCodesOfEachCommand := by
  intro i s
  cases i with
  | nop | release => exact yields_next rfl
  | decode =>
    simp only [exec, execDecode]
    split
    · exact resultIn_fail (List.mem_cons_of_mem _ (decodeFile_error ‹_›))
    · exact resultIn_succeed List.mem_cons_self
  | encode =>
    refine resultIn_needBuffer (codes := [.ok, .ioError, .emptyBuffer]) (by decide) ?_
    split
    · exact resultIn_fail (by decide)
    · exact resultIn_succeed (by decide)
  | setshape =>
    simp only [exec, execSetshape]
    split
    · exact resultIn_succeed List.mem_cons_self
    · exact resultIn_fail (setshapeCheck_mem _ _ _)
  | grayscale => exact resultIn_needChannels_succeed 3 _
  | thresh => exact resultIn_needChannels_succeed 1 _
  | convolve =>
    refine resultIn_needBuffer (codes := [.ok, .invalidKernel, .emptyBuffer]) (by decide) ?_
    split
    · exact resultIn_succeed (by decide)
    · exact resultIn_fail (by decide)
  | equalize =>
    refine resultIn_needBuffer (codes := [.ok, .emptyBuffer]) (by decide) ?_
    split <;> exact resultIn_succeed (by decide)
  | negative | bright | boxblur | gauss | outline | emboss | sharpen | histo =>
    exact resultIn_needBuffer_succeed _

/-- Settles O54: STATUS and IRQEN are open to a write at any time, and `irq` is low without a flag or without an
enable. -/
theorem interruptIsAFunctionOfFlags : Obligations.InterruptIsAFunctionOfFlags := by
  refine ⟨State.irq_iff, fun s w => ?_, fun s w => ?_, by decide⟩
  · refine ⟨(s.acknowledge w).answerWrite, onBus_write_of_located (locate_reg .status) (.inr rfl) w,
      rfl, rfl, rfl, rfl, ?_⟩
    rintro ⟨done, errf, hzd⟩
    exact State.irq_of_noFlag (by simp [done]) (by simp [errf]) (by simp [hzd])
  · refine ⟨_, onBus_write_of_located (locate_reg .irqen) (.inr rfl) w, rfl, rfl, rfl, rfl, ?_⟩
    rintro ⟨done, err, hzd⟩
    exact State.irq_of_noEnable done err hzd

end Sys2Proof.Proofs

/-! PROOFS. The busy rule (70_reset_and_hazards.md R236): what the host may reach while a command is in flight, by
address. -/

namespace Sys2Proof.Machine

open Sys2Proof.Claims

theorem regAt_eq_some {e : Nat} {r : Reg} (h : regAt e = some r) : r.addr.toNat = 4 * e := by
  unfold regAt at h
  split at h <;> cases h <;> rfl

/-- A register is reached at its own address only, the converse of `locate_reg`. -/
theorem addr_of_locate_reg {addr : Word} {n : AccessSize} {r : Reg} (h : locate addr n = some (.reg r)) :
    addr = r.addr := by
  obtain ⟨aligned, byBytes | ⟨rfl, byWord⟩⟩ := locate_eq_some h
  · obtain ⟨_, _, ⟨⟩, _⟩ := byteTarget_eq_some byBytes
  · obtain ⟨_, ⟨⟩, here, _⟩ | ⟨⟨⟩, _⟩ | ⟨⟨⟩, _⟩ | ⟨⟨⟩, _⟩ := wordTarget_eq_some byWord
    have offset := regAt_eq_some here
    simp only [AccessSize.bytes] at aligned
    exact BitVec.eq_of_toNat_eq (by omega)

/-- Only a register is open to a read, and its address is one of `openReads`. -/
theorem openToRead_iff (t : Target) : t.openToRead = true ↔ ∃ r, t = .reg r ∧ r.addr ∈ openReads := by
  cases t with
  | reg r => cases r <;> simp [Target.openToRead, Reg.addr, openReads]
  | _ => simp [Target.openToRead]

/-- Only a register is open to a write, and its address is one of `openWrites`. -/
theorem openToWrite_iff (t : Target) : t.openToWrite = true ↔ ∃ r, t = .reg r ∧ r.addr ∈ openWrites := by
  cases t with
  | reg r => cases r <;> simp [Target.openToWrite, Reg.addr, openWrites]
  | _ => simp [Target.openToWrite]

section
variable {addr : Word} {n : AccessSize} {t : Target} (located : locate addr n = some t)
include located

/-- At every address but those of `openReads` a read breaks the busy rule. -/
theorem openToRead_of_not_mem (closed : addr ∉ openReads) : t.openToRead = false := by
  rw [← Bool.not_eq_true, openToRead_iff]
  rintro ⟨r, rfl, opened⟩
  exact closed (addr_of_locate_reg located ▸ opened)

/-- At every address but those of `openWrites` a write breaks the busy rule. -/
theorem openToWrite_of_not_mem (closed : addr ∉ openWrites) : t.openToWrite = false := by
  rw [← Bool.not_eq_true, openToWrite_iff]
  rintro ⟨r, rfl, opened⟩
  exact closed (addr_of_locate_reg located ▸ opened)

end

end Sys2Proof.Machine

namespace Sys2Proof.Proofs

open Sys2Proof.Machine Sys2Proof.Claims

/-- Settles O48: a mapped access reaches a target (`mapped_iff`), which is open only at the open addresses
(`openToRead_of_not_mem`, `openToWrite_of_not_mem`). -/
theorem busyRuleDropsAccesses : Obligations.BusyRuleDropsAccesses := by
  intro s addr n busy mapped
  obtain ⟨t, located⟩ := (mapped_iff addr n).1 mapped
  refine ⟨fun closed => ⟨s.violatingRead n, ?_⟩, fun closed v => ?_⟩
  · exact congrArg Host.Outcome.next (busRead_of_violation located busy (openToRead_of_not_mem located closed))
  · exact congrArg Host.Outcome.next (busWrite_of_violation located busy (openToWrite_of_not_mem located closed))

end Sys2Proof.Proofs

/-! PROOFS. The tie rule (92_eei_decisions.md D14): negative ties are the only quotients that the two rules round
differently, and the clamp hides them. -/

namespace Sys2Proof.Machine

/-- The engine is configured with ties away from zero (D14). -/
theorem roundWith_away (num : Int) (den : Nat) : roundWith .away num den = round num den := rfl

theorem roundWith_up (num : Int) (den : Nat) : roundWith .up num den = (2 * num + den) / (2 * den) := rfl

theorem roundWith_up_of_nonneg {num : Int} (h : 0 ≤ num) (den : Nat) : roundWith .up num den = round num den := by
  rw [roundWith_up, round_of_nonneg h]

theorem roundWith_up_nonpos {num : Int} (h : num ≤ 0) {den : Nat} (hd : 0 < den) : roundWith .up num den ≤ 0 := by
  rw [roundWith_up, ← Int.lt_add_one_iff]
  exact Int.ediv_lt_of_lt_mul (by omega) (by omega)

end Sys2Proof.Machine

namespace Sys2Proof.Proofs

open Sys2Proof.Machine

/-- Settles O34: at 0 and above both rules are the same formula (`roundWith_up_of_nonneg`); at 0 and below neither
quotient is positive, so both samples are 0. -/
theorem tiesAwayAndUpAgreeOnSamples : Obligations.TiesAwayAndUpAgreeOnSamples := by
  intro num den hd
  rw [roundWith_away]
  obtain h | h := le_total 0 num
  · rw [roundWith_up_of_nonneg h]
  · rw [clampByte_round_of_nonpos h hd, clampByte_of_le (roundWith_up_nonpos h hd)]

end Sys2Proof.Proofs
